-- ==== Sys2Proof/Word.lean ====
section
/-!
DEFINITION. The two word types of the framer: bytes and 16-bit values (00_scope.md R4, R6).
-/

namespace Sys2Proof

/-- A byte, an unsigned integer 0..255 (00_scope.md R4). -/
abbrev Byte := BitVec 8

/-- A 16-bit value: a device ID, a target selector, a concentration in tenths (00_scope.md R6). -/
abbrev Half := BitVec 16

/-- Ten bytes by frame index: what RXBUF and RSPBUF hold, and what a candidate is
(10_state.md R12, R13; 30_encoding.md R63). `b0` is the byte received first. -/
structure Window where
  b0 : Byte
  b1 : Byte
  b2 : Byte
  b3 : Byte
  b4 : Byte
  b5 : Byte
  b6 : Byte
  b7 : Byte
  b8 : Byte
  b9 : Byte
  deriving DecidableEq, Repr

end Sys2Proof
end

