-- ==== Sys2Proof/Machine/Checksum.lean ====
section
/-!
DEFINITION. The checksum engine and the 16-bit arithmetic (40_checksum.md).
-/

namespace Sys2Proof

/-- The sum of the unsigned values of the bytes, before the reduction of 40_checksum.md R90. -/
def byteSum : List Byte → Nat
  | [] => 0
  | b :: bs => b.toNat + byteSum bs

/-- `checksum(B)`: the unsigned byte sum modulo 256; the carry is dropped (40_checksum.md R90, R91). -/
def checksum (bs : List Byte) : Byte := BitVec.ofNat 8 (byteSum bs % 256)

/-- The incremental form: an accumulator cleared to 0, to which bytes are added one by one
(40_checksum.md R92). It is no state of the machine. -/
def accumulate (acc : Byte) : List Byte → Byte
  | [] => acc
  | b :: bs => accumulate (acc + b) bs

/-- `u16le(lo, hi) = lo + 256*hi` (00_scope.md R6; 40_checksum.md R96). -/
def u16le (lo hi : Byte) : Half := BitVec.ofNat 16 (lo.toNat + 256 * hi.toNat)

/-- `lo8(v) = v mod 256` (40_checksum.md R96). -/
def lo8 (v : Half) : Byte := BitVec.ofNat 8 (v.toNat % 256)

/-- `hi8(v) = v div 256` (40_checksum.md R96). -/
def hi8 (v : Half) : Byte := BitVec.ofNat 8 (v.toNat / 256)

end Sys2Proof
end

