-- ==== Sys2Proof/Config.lean ====
section
/-!
DEFINITION. What an implementation fixes (00_scope.md R3, 10_state.md R24) and the two free values.
-/

namespace Sys2Proof

/-- `CMD_LAYOUT`: the layout of a command frame (00_scope.md R3; 90_conflicts.md C1). -/
inductive Layout
  | l17
  | l19
  deriving DecidableEq, Repr

/-- The implementation parameters of 00_scope.md R3 that have more than one value.
They are fixed before reset and no operation changes them (10_state.md R24). -/
structure Config where
  /-- `CMD_LAYOUT`. -/
  layout : Layout
  /-- `ACK_OFF_CMD`: payload index of the echoed command byte. -/
  ackOffCmd : Fin 6
  /-- `ACK_OFF_SUB`: payload index of the echoed get/set sub-opcode. -/
  ackOffSub : Fin 6
  /-- `ACK_OFF_VAL`: payload index of the acknowledged value. -/
  ackOffVal : Fin 6
  /-- `ACK_OFF_FW`: payload index of the first of the three firmware bytes. -/
  ackOffFw : Fin 4
  /-- `MODE_ACTIVE`: wire value of the Active mode. -/
  modeActive : Byte
  /-- `MODE_QUERY`: wire value of the Query mode. -/
  modeQuery : Byte
  /-- `RX_FIFO_DEPTH`: how many unread bytes the transport holds; `none` is unbounded. -/
  rxFifoDepth : Option Nat
  /-- The reset value of `TGT`. -/
  tgtReset : Half
  /-- `TRACK`: the host's getters may answer from the cache (44_host_sequences.md R182). -/
  track : Bool
  deriving DecidableEq, Repr

/-- The default of every parameter (00_scope.md R3). The ack positions and the mode values are
PRESUMED by the spec itself (its decisions D7, D8; log entry 4). `TRACK` has no default there:
DESIGN CHOICE off (log entry 3). -/
def Config.standard : Config :=
  { layout := .l17, ackOffCmd := 0, ackOffSub := 1, ackOffVal := 2, ackOffFw := 1,
    modeActive := 0, modeQuery := 1, rxFifoDepth := none, tgtReset := 0xFFFF, track := false }

/-- FREE VALUE (log entry 12): the command byte a host sequence hands to `ARM MEAS`, which the spec
leaves open (10_state.md R23: "its value is ignored and may be anything"; 95_test_vectors.md P2). -/
opaque Config.freeByte : Nat → Byte

/-- FREE VALUE (log entry 11): for the k-th overflow of a bounded transport, whether the byte at a
position of the over-full stream is lost (20_memory.md R41; 93_implementation_defined.md U6). -/
opaque Config.overflowLoses : Nat → Nat → Bool

end Sys2Proof
end

