-- ==== Sys2Proof/Syntax.lean ====
section
/-!
DEFINITION. The instructions of the opcode table and the operations without a wire encoding.
-/

namespace Sys2Proof

/-- The instructions of spec/opcode_table.json, one constructor per mnemonic.

The ten command instructions (30_encoding.md R73) have two rows each, one per value of `CMD_LAYOUT`:
the rows are two wire encodings of the one instruction its rule R102 to R111 defines
(30_encoding.md R82; log entry 10). The seven response instructions (R74) carry the fields of their
row, the checksum byte among them, because the block evaluates it when it runs them (log entry 9). -/
inductive Instr
  /-- `GET_MODE` (41_command_encoder.md R103). -/
  | getMode
  /-- `SET_MODE m` (R104). -/
  | setMode (m : Byte)
  /-- `QUERY` (R105). -/
  | query
  /-- `SET_ID n` (R106). -/
  | setId (n : Half)
  /-- `GET_RUN` (R107). -/
  | getRun
  /-- `SET_RUN r` (R108). -/
  | setRun (r : Byte)
  /-- `GET_FW` (R109). -/
  | getFw
  /-- `GET_DUTY` (R110). -/
  | getDuty
  /-- `SET_DUTY d` (R111). -/
  | setDuty (d : Byte)
  /-- `RAW c, [a...]` (R102): any command byte and up to twelve argument bytes. -/
  | raw (c : Byte) (args : List Byte)
  /-- `MEAS` (43_response_decoder.md R155). -/
  | meas (pm25 pm10 id : Half) (chk : Byte)
  /-- `ACK_MODE` (R158). -/
  | ackMode (sub mode p3 : Byte) (id : Half) (chk : Byte)
  /-- `ACK_ID` (R159). -/
  | ackId (p1 p2 p3 : Byte) (id : Half) (chk : Byte)
  /-- `ACK_RUN` (R160). -/
  | ackRun (sub run p3 : Byte) (id : Half) (chk : Byte)
  /-- `ACK_FW` (R161). -/
  | ackFw (year month day : Byte) (id : Half) (chk : Byte)
  /-- `ACK_DUTY` (R162). -/
  | ackDuty (sub duty p3 : Byte) (id : Half) (chk : Byte)
  /-- `ACK_OTHER` (R164): an ack echoing a command byte without a name. -/
  | ackOther (cmd p1 p2 p3 : Byte) (id : Half) (chk : Byte)
  deriving DecidableEq, Repr

/-- The requests of the Sensor Session (44_host_sequences.md R185 to R192). The operands of `setDuty`
and `setId` are the caller's unbounded numbers, checked before any block operation (R195). -/
inductive Request
  | poll
  | query
  | getMode
  | setMode (m : Byte)
  | getRun
  | setRun (r : Byte)
  | getDuty
  | setDuty (d : Nat)
  | getFirmware
  | getId
  | setId (n : Nat)
  deriving DecidableEq, Repr

/-- `wake` is `set_run 1` (44_host_sequences.md R188). -/
abbrev Request.wake : Request := .setRun 1

/-- `sleep` is `set_run 0` (44_host_sequences.md R189). -/
abbrev Request.sleep : Request := .setRun 0

/-- TRANSPORT's answer to one frame write (20_memory.md R43, R45): the whole frame was sent; an error
after some number of its bytes reached the wire; fewer bytes written, without an error. -/
inductive WriteAnswer
  | ok
  | error (sent : Nat)
  | short (sent : Nat)
  deriving DecidableEq, Repr

/-- One line of the HOST's program (30_encoding.md R80, R81). `RXBYTE` is not among them: it is the
step of the agent DEC. -/
inductive HostOp
  /-- A command instruction, given by the frame that encodes it (log entry 7). -/
  | issue (frame : List Byte)
  /-- `ENCODE c, [a...]`. -/
  | encode (c : Byte) (args : List Byte)
  /-- `SETTGT t`. -/
  | setTgt (t : Half)
  /-- `TXWRITE`, one attempt. -/
  | txWrite
  /-- `ARM` with an expected type and an expected command byte. -/
  | arm (ty c : Byte)
  /-- `AWAIT`. -/
  | await
  /-- A session request (a pseudo-instruction of R81). -/
  | call (r : Request)
  deriving DecidableEq, Repr

/-- Which agent moves (00_scope.md R9), or an event from outside. -/
inductive Turn
  /-- HOST takes its next step (and ENC with it, where the step is an operation of ENC). -/
  | host
  /-- DEC takes one byte. -/
  | dec
  /-- A read of DEC's delivers no byte (20_memory.md R44). -/
  | readFails
  /-- TRANSPORT appends the next byte of its feed to the RX stream (20_memory.md R41). -/
  | transport
  /-- The reset event (70_reset_and_hazards.md R240). -/
  | reset
  deriving DecidableEq, Repr

end Sys2Proof
end

