-- ==== Sys2Proof/Machine/Frame.lean ====
section
/-!
DEFINITION. The two frame formats: layout constants, the command frame builder, byte windows.
-/

namespace Sys2Proof

/-- The head byte of every frame (30_encoding.md R61, R63). -/
def headByte : Byte := 0xAA
/-- The tail byte of every frame (30_encoding.md R61, R63). -/
def tailByte : Byte := 0xAB
/-- The command-class marker, `cmdid` (30_encoding.md R61). -/
def markerByte : Byte := 0xB4
/-- The response type of a measurement frame (30_encoding.md R64). -/
def typeMeas : Byte := 0xC0
/-- The response type of an ack frame (30_encoding.md R64). -/
def typeAck : Byte := 0xC5

/-- `NARG`: the size of the argument region (00_scope.md R3). -/
def nArg : Nat := 12
/-- `RSP_LEN`: the length of a response frame (00_scope.md R3). -/
def rspLen : Nat := 10
/-- `RSP_OFF_ID`: payload index of the low byte of the device ID; one value only (00_scope.md R3). -/
def rspOffId : Nat := 4

/-- `CMD_LEN` (00_scope.md R3). -/
def cmdLen : Layout → Nat
  | .l17 => 17
  | .l19 => 19
/-- `SEL_OFF`: frame index of the low byte of the target selector (00_scope.md R3). -/
def selOff : Layout → Nat
  | .l17 => 13
  | .l19 => 15
/-- `SUM_LAST`: the last frame index the command checksum covers (00_scope.md R3). -/
def sumLast : Layout → Nat
  | .l17 => 14
  | .l19 => 16
/-- `CHK_OFF`: frame index of the command checksum byte (00_scope.md R3). -/
def chkOff : Layout → Nat
  | .l17 => 15
  | .l19 => 17
/-- `TAIL_OFF`: frame index of the command tail byte (00_scope.md R3). -/
def tailOff : Layout → Nat
  | .l17 => 16
  | .l19 => 18

/-- `zeros(n)` (00_scope.md R5). -/
def zeros (n : Nat) : List Byte := List.replicate n 0

/-- `F[i]`, with 0 for an index outside the frame. -/
def byteAt (f : List Byte) (i : Nat) : Byte := f.getD i 0

/-- `F[a..b]`, both ends included (00_scope.md R5). -/
def bytesFromTo (f : List Byte) (a b : Nat) : List Byte := (f.drop a).take (b + 1 - a)

/-- The argument region: the supplied bytes right-padded with zeros to twelve (30_encoding.md R66). -/
def padArgs (args : List Byte) : List Byte := (args ++ zeros nArg).take nArg

/-- What a zero selector is replaced by: the target, or "any device" where the target itself is
unset (41_command_encoder.md R100, R101; 10_state.md R20). -/
def targetOrAny (tgt : Half) : Half := if tgt = 0x0000 then 0xFFFF else tgt

/-- The selector rule, "leave set value unless zero" (41_command_encoder.md R101). -/
def applySelector (l : Layout) (tgt : Half) (f : List Byte) : List Byte :=
  if byteAt f (selOff l) = 0x00 ∧ byteAt f (selOff l + 1) = 0x00 then
    (f.set (selOff l) (lo8 (targetOrAny tgt))).set (selOff l + 1) (hi8 (targetOrAny tgt))
  else f

/-- The command checksum over `F[2..SUM_LAST]` (30_encoding.md R62). -/
def commandChecksum (l : Layout) (f : List Byte) : Byte := checksum (bytesFromTo f 2 (sumLast l))

/-- The frame `ENCODE c, a` puts into TXBUF, as the pseudocode of 41_command_encoder.md R100 builds it
(for at most twelve arguments). -/
def buildFrame (l : Layout) (tgt : Half) (c : Byte) (args : List Byte) : List Byte :=
  let placed := headByte :: markerByte :: c :: (padArgs args ++ zeros (cmdLen l - 15))
  let addressed := applySelector l tgt placed
  (addressed.set (chkOff l) (commandChecksum l addressed)).set (tailOff l) tailByte

/-- All bytes zero: the model's value of a window at reset (log entry 1). -/
def Window.zero : Window := ⟨0, 0, 0, 0, 0, 0, 0, 0, 0, 0⟩

/-- The bytes of a window in index order. -/
def Window.toList (w : Window) : List Byte :=
  [w.b0, w.b1, w.b2, w.b3, w.b4, w.b5, w.b6, w.b7, w.b8, w.b9]

/-- The window whose bytes are the first ten of a list (0 where the list is shorter). -/
def Window.ofList (f : List Byte) : Window :=
  ⟨byteAt f 0, byteAt f 1, byteAt f 2, byteAt f 3, byteAt f 4,
   byteAt f 5, byteAt f 6, byteAt f 7, byteAt f 8, byteAt f 9⟩

/-- `W[i]`, 0 for an index above 9. -/
def Window.get (w : Window) (i : Nat) : Byte := byteAt w.toList i

/-- `W[i] <- b`; the position counter selects the byte (42_resynchronizer.md R132, R133). -/
def Window.set (w : Window) (i : Fin 10) (b : Byte) : Window :=
  match i with
  | 0 => { w with b0 := b }
  | 1 => { w with b1 := b }
  | 2 => { w with b2 := b }
  | 3 => { w with b3 := b }
  | 4 => { w with b4 := b }
  | 5 => { w with b5 := b }
  | 6 => { w with b6 := b }
  | 7 => { w with b7 := b }
  | 8 => { w with b8 := b }
  | 9 => { w with b9 := b }

/-- The six payload bytes `F[2..7]` of a response frame (30_encoding.md R63). -/
def Window.payload (w : Window) : List Byte := [w.b2, w.b3, w.b4, w.b5, w.b6, w.b7]

/-- Payload byte `p[k]`, frame byte `2+k` (00_scope.md R5). -/
def Window.p (w : Window) (k : Nat) : Byte := w.get (2 + k)

end Sys2Proof
end

