-- ==== Sys2Proof/WellFormed.lean ====
section
/-!
DEFINITION. Which operands a row of the opcode table can encode.
-/

namespace Sys2Proof

/-- The command bytes an ack may echo that have a row of their own (30_encoding.md R74). -/
def namedAckCommands : List Byte := [0x02, 0x05, 0x06, 0x07, 0x08]

/-- The operands fit the fields of the instruction's row (spec/opcode_table.json; 30_encoding.md R82):
one bit for a mode or a run-state, five bits for a duty cycle (31 fits and is refused when it runs,
41_command_encoder.md R111), at most twelve argument bytes (30_encoding.md R66), and an unnamed
command byte in `ACK_OTHER` (43_response_decoder.md R164). -/
def Instr.wf : Instr → Bool
  | .getMode => true
  | .setMode m => decide (m ≤ 1)
  | .query => true
  | .setId _ => true
  | .getRun => true
  | .setRun r => decide (r ≤ 1)
  | .getFw => true
  | .getDuty => true
  | .setDuty d => decide (d ≤ 31)
  | .raw _ args => decide (args.length ≤ 12)
  | .meas _ _ _ _ => true
  | .ackMode _ _ _ _ _ => true
  | .ackId _ _ _ _ _ => true
  | .ackRun _ _ _ _ _ => true
  | .ackFw _ _ _ _ _ => true
  | .ackDuty _ _ _ _ _ => true
  | .ackOther cmd _ _ _ _ _ => !namedAckCommands.contains cmd

end Sys2Proof
end

