-- ==== Sys2Proof/Decode.lean ====
section
/-!
DEFINITION. The decoder, total on any bytes, from the rows of spec/opcode_table.json, and the encoder.
-/

namespace Sys2Proof

/-- Why a sequence of bytes is no instruction's encoding. -/
inductive DecodeError
  /-- Not the length of a frame of this direction (30_encoding.md R78). -/
  | badLength
  /-- `F[0]` is not the head byte (30_encoding.md R61, R63). -/
  | badHead
  /-- `F[1]` of a command frame is not the marker `0xB4` (30_encoding.md R61). -/
  | badMarker
  /-- The last byte is not the tail byte (30_encoding.md R61, R63). -/
  | badTail
  /-- A command frame's checksum byte is wrong (30_encoding.md R62; 41_command_encoder.md R115). -/
  | badChecksum
  /-- A response frame's type byte is neither `0xC0` nor `0xC5` (30_encoding.md R77). -/
  | badType
  deriving DecidableEq, Repr

/-- `match` and `mask` of a row, as the table writes them: two hexadecimal digits per frame byte,
byte 0 first (30_encoding.md R82). -/
structure Row where
  pattern : Nat
  mask : Nat
  deriving DecidableEq, Repr

/-- The `n` bytes of a row's hexadecimal string, byte 0 first. -/
def rowBytes (n x : Nat) : List Byte :=
  (List.range n).map fun i => BitVec.ofNat 8 (x / 256 ^ (n - 1 - i))

/-- `(F and mask) = match`, bytewise (30_encoding.md R82). -/
def Row.matches (r : Row) (f : List Byte) : Bool :=
  decide (List.zipWith (· &&& ·) f (rowBytes f.length r.mask) = rowBytes f.length r.pattern)

/-- The command rows, by mnemonic. -/
inductive CmdForm
  | getMode
  | setMode
  | query
  | setId
  | getRun
  | setRun
  | getFw
  | getDuty
  | setDuty
  | raw
  deriving DecidableEq, Repr

/-- The response rows, by mnemonic. -/
inductive RspForm
  | meas
  | ackMode
  | ackId
  | ackRun
  | ackFw
  | ackDuty
  | ackOther
  deriving DecidableEq, Repr

/-- The twenty command rows of spec/opcode_table.json. -/
def cmdRow : Layout → CmdForm → Row
  | .l17, .getMode => ⟨0xAAB40200000000000000000000000000AB, 0xFFFFFFFFFFFFFFFFFFFFFFFFFF000000FF⟩
  | .l17, .setMode => ⟨0xAAB40201000000000000000000000000AB, 0xFFFFFFFFFEFFFFFFFFFFFFFFFF000000FF⟩
  | .l17, .query => ⟨0xAAB40400000000000000000000000000AB, 0xFFFFFFFFFFFFFFFFFFFFFFFFFF000000FF⟩
  | .l17, .setId => ⟨0xAAB40500000000000000000000000000AB, 0xFFFFFFFFFFFFFFFFFFFFFFFFFF000000FF⟩
  | .l17, .getRun => ⟨0xAAB40600000000000000000000000000AB, 0xFFFFFFFFFFFFFFFFFFFFFFFFFF000000FF⟩
  | .l17, .setRun => ⟨0xAAB40601000000000000000000000000AB, 0xFFFFFFFFFEFFFFFFFFFFFFFFFF000000FF⟩
  | .l17, .getFw => ⟨0xAAB40700000000000000000000000000AB, 0xFFFFFFFFFFFFFFFFFFFFFFFFFF000000FF⟩
  | .l17, .getDuty => ⟨0xAAB40800000000000000000000000000AB, 0xFFFFFFFFFFFFFFFFFFFFFFFFFF000000FF⟩
  | .l17, .setDuty => ⟨0xAAB40801000000000000000000000000AB, 0xFFFFFFFFE0FFFFFFFFFFFFFFFF000000FF⟩
  | .l17, .raw => ⟨0xAAB40000000000000000000000000000AB, 0xFFFF0000000000000000000000000000FF⟩
  | .l19, .getMode => ⟨0xAAB402000000000000000000000000000000AB, 0xFFFFFFFFFFFFFFFFFFFFFFFFFFFFFF000000FF⟩
  | .l19, .setMode => ⟨0xAAB402010000000000000000000000000000AB, 0xFFFFFFFFFEFFFFFFFFFFFFFFFFFFFF000000FF⟩
  | .l19, .query => ⟨0xAAB404000000000000000000000000000000AB, 0xFFFFFFFFFFFFFFFFFFFFFFFFFFFFFF000000FF⟩
  | .l19, .setId => ⟨0xAAB405000000000000000000000000000000AB, 0xFFFFFFFFFFFFFFFFFFFFFFFFFF0000000000FF⟩
  | .l19, .getRun => ⟨0xAAB406000000000000000000000000000000AB, 0xFFFFFFFFFFFFFFFFFFFFFFFFFFFFFF000000FF⟩
  | .l19, .setRun => ⟨0xAAB406010000000000000000000000000000AB, 0xFFFFFFFFFEFFFFFFFFFFFFFFFFFFFF000000FF⟩
  | .l19, .getFw => ⟨0xAAB407000000000000000000000000000000AB, 0xFFFFFFFFFFFFFFFFFFFFFFFFFFFFFF000000FF⟩
  | .l19, .getDuty => ⟨0xAAB408000000000000000000000000000000AB, 0xFFFFFFFFFFFFFFFFFFFFFFFFFFFFFF000000FF⟩
  | .l19, .setDuty => ⟨0xAAB408010000000000000000000000000000AB, 0xFFFFFFFFE0FFFFFFFFFFFFFFFFFFFF000000FF⟩
  | .l19, .raw => ⟨0xAAB400000000000000000000000000000000AB, 0xFFFF00000000000000000000000000000000FF⟩

/-- The seven response rows of spec/opcode_table.json. -/
def rspRow : RspForm → Row
  | .meas => ⟨0xAAC000000000000000AB, 0xFFFF00000000000000FF⟩
  | .ackMode => ⟨0xAAC502000000000000AB, 0xFFFFFF000000000000FF⟩
  | .ackId => ⟨0xAAC505000000000000AB, 0xFFFFFF000000000000FF⟩
  | .ackRun => ⟨0xAAC506000000000000AB, 0xFFFFFF000000000000FF⟩
  | .ackFw => ⟨0xAAC507000000000000AB, 0xFFFFFF000000000000FF⟩
  | .ackDuty => ⟨0xAAC508000000000000AB, 0xFFFFFF000000000000FF⟩
  | .ackOther => ⟨0xAAC500000000000000AB, 0xFFFF00000000000000FF⟩

/-- The command rows that stand before `RAW`, in the table's order. -/
def namedCmdForms : List CmdForm :=
  [.getMode, .setMode, .query, .setId, .getRun, .setRun, .getFw, .getDuty, .setDuty]

/-- The ack rows that stand before `ACK_OTHER`, and `MEAS`, in the table's order. -/
def namedRspForms : List RspForm := [.meas, .ackMode, .ackId, .ackRun, .ackFw, .ackDuty]

/-- The row a command frame is an instance of: rows are tried in the table's order and `RAW` catches
the rest (30_encoding.md R82). -/
def cmdFormOf (l : Layout) (f : List Byte) : CmdForm :=
  (namedCmdForms.find? fun g => (cmdRow l g).matches f).getD .raw

/-- The row a response frame of a known type is an instance of; `ACK_OTHER` catches the rest. -/
def rspFormOf (w : Window) : RspForm :=
  (namedRspForms.find? fun g => (rspRow g).matches w.toList).getD .ackOther

/-- The operands of a command row, read from the frame bytes the table gives them. -/
def readCommand (f : List Byte) : CmdForm → Instr
  | .getMode => .getMode
  | .setMode => .setMode (byteAt f 4)
  | .query => .query
  | .setId => .setId (u16le (byteAt f 13) (byteAt f 14))
  | .getRun => .getRun
  | .setRun => .setRun (byteAt f 4)
  | .getFw => .getFw
  | .getDuty => .getDuty
  | .setDuty => .setDuty (byteAt f 4)
  | .raw => .raw (byteAt f 2) (bytesFromTo f 3 14)

/-- The fields of a response row, read from the frame bytes the table gives them. -/
def readResponse (w : Window) : RspForm → Instr
  | .meas => .meas (u16le w.b2 w.b3) (u16le w.b4 w.b5) (u16le w.b6 w.b7) w.b8
  | .ackMode => .ackMode w.b3 w.b4 w.b5 (u16le w.b6 w.b7) w.b8
  | .ackId => .ackId w.b3 w.b4 w.b5 (u16le w.b6 w.b7) w.b8
  | .ackRun => .ackRun w.b3 w.b4 w.b5 (u16le w.b6 w.b7) w.b8
  | .ackFw => .ackFw w.b3 w.b4 w.b5 (u16le w.b6 w.b7) w.b8
  | .ackDuty => .ackDuty w.b3 w.b4 w.b5 (u16le w.b6 w.b7) w.b8
  | .ackOther => .ackOther w.b2 w.b3 w.b4 w.b5 (u16le w.b6 w.b7) w.b8

/-- What `decode_command` reads off a command frame (41_command_encoder.md R115). -/
structure CommandFields where
  cmd : Byte
  args : List Byte
  sel : Half
  deriving DecidableEq, Repr

/-- The fields of a command frame, where its length and its fixed bytes are right
(30_encoding.md R61, R78). -/
def frameFields (l : Layout) (f : List Byte) : Except DecodeError CommandFields :=
  if f.length ≠ cmdLen l then .error .badLength
  else if byteAt f 0 ≠ headByte then .error .badHead
  else if byteAt f 1 ≠ markerByte then .error .badMarker
  else if byteAt f (tailOff l) ≠ tailByte then .error .badTail
  else .ok
    { cmd := byteAt f 2, args := bytesFromTo f 3 14,
      sel := u16le (byteAt f (selOff l)) (byteAt f (selOff l + 1)) }

/-- `decode_command(F)`, the reverse of the encoder (41_command_encoder.md R115). -/
def commandFields (l : Layout) (f : List Byte) : Except DecodeError CommandFields :=
  match frameFields l f with
  | .error e => .error e
  | .ok fields =>
    if byteAt f (chkOff l) ≠ commandChecksum l f then .error .badChecksum else .ok fields

/-- The command instruction a frame is an instance of, by `match` and `mask` alone (30_encoding.md
R82). It is how the HOST's program names the instruction it issues: the checksum byte and the
selector are then not read, because the encoder computes both (41_command_encoder.md R100; log
entry 7). -/
def issuedInstruction (l : Layout) (f : List Byte) : Except DecodeError Instr :=
  match frameFields l f with
  | .error e => .error e
  | .ok _ => .ok (readCommand f (cmdFormOf l f))

/-- A command frame's instruction and the selector it carries. The frame's checksum is checked, as
30_encoding.md R82 asks of a decoder written from the table. -/
def decodeCommand (l : Layout) (f : List Byte) : Except DecodeError (Instr × Half) :=
  match commandFields l f with
  | .error e => .error e
  | .ok fields => .ok (readCommand f (cmdFormOf l f), fields.sel)

/-- A response frame's instruction. Its checksum byte is a field and no ground to refuse: clause
`V_SUM` checks it when the instruction runs (43_response_decoder.md R150; log entry 9). -/
def decodeResponse (w : Window) : Except DecodeError Instr :=
  if w.b0 ≠ headByte then .error .badHead
  else if w.b9 ≠ tailByte then .error .badTail
  else if w.b1 ≠ typeMeas ∧ w.b1 ≠ typeAck then .error .badType
  else .ok (readResponse w (rspFormOf w))

/-- The decoder of a machine with layout `l`: ten bytes are a response frame, `CMD_LEN` bytes a
command frame (30_encoding.md R78). -/
def decode (l : Layout) (f : List Byte) : Except DecodeError Instr :=
  if f.length = rspLen then decodeResponse (Window.ofList f)
  else (decodeCommand l f).map Prod.fst

/-- The command byte of a command instruction (30_encoding.md R73). -/
def commandByte : Instr → Byte
  | .getMode => 0x02
  | .setMode _ => 0x02
  | .query => 0x04
  | .setId _ => 0x05
  | .getRun => 0x06
  | .setRun _ => 0x06
  | .getFw => 0x07
  | .getDuty => 0x08
  | .setDuty _ => 0x08
  | .raw c _ => c
  | .meas _ _ _ _ => 0
  | .ackMode _ _ _ _ _ => 0
  | .ackId _ _ _ _ _ => 0
  | .ackRun _ _ _ _ _ => 0
  | .ackFw _ _ _ _ _ => 0
  | .ackDuty _ _ _ _ _ => 0
  | .ackOther _ _ _ _ _ _ => 0

/-- The argument bytes of a command instruction (30_encoding.md R67, R69, R73). -/
def argumentBytes : Instr → List Byte
  | .getMode => [0x00]
  | .setMode m => [0x01, m]
  | .query => []
  | .setId n => zeros 10 ++ [lo8 n, hi8 n]
  | .getRun => [0x00]
  | .setRun r => [0x01, r]
  | .getFw => []
  | .getDuty => [0x00]
  | .setDuty d => [0x01, d]
  | .raw _ args => args
  | .meas _ _ _ _ => []
  | .ackMode _ _ _ _ _ => []
  | .ackId _ _ _ _ _ => []
  | .ackRun _ _ _ _ _ => []
  | .ackFw _ _ _ _ _ => []
  | .ackDuty _ _ _ _ _ => []
  | .ackOther _ _ _ _ _ _ => []

/-- The ack frame with a given echo, three payload bytes, ID and checksum byte
(30_encoding.md R63, R71). -/
def ackWindow (cmd p1 p2 p3 : Byte) (id : Half) (chk : Byte) : Window :=
  ⟨headByte, typeAck, cmd, p1, p2, p3, lo8 id, hi8 id, chk, tailByte⟩

/-- The measurement frame with given fields (30_encoding.md R63, R70). -/
def measWindow (pm25 pm10 id : Half) (chk : Byte) : Window :=
  ⟨headByte, typeMeas, lo8 pm25, hi8 pm25, lo8 pm10, hi8 pm10, lo8 id, hi8 id, chk, tailByte⟩

/-- The window of a response instruction; `none` for a command. -/
def responseWindow : Instr → Option Window
  | .getMode => none
  | .setMode _ => none
  | .query => none
  | .setId _ => none
  | .getRun => none
  | .setRun _ => none
  | .getFw => none
  | .getDuty => none
  | .setDuty _ => none
  | .raw _ _ => none
  | .meas pm25 pm10 id chk => some (measWindow pm25 pm10 id chk)
  | .ackMode sub mode p3 id chk => some (ackWindow 0x02 sub mode p3 id chk)
  | .ackId p1 p2 p3 id chk => some (ackWindow 0x05 p1 p2 p3 id chk)
  | .ackRun sub run p3 id chk => some (ackWindow 0x06 sub run p3 id chk)
  | .ackFw year month day id chk => some (ackWindow 0x07 year month day id chk)
  | .ackDuty sub duty p3 id chk => some (ackWindow 0x08 sub duty p3 id chk)
  | .ackOther cmd p1 p2 p3 id chk => some (ackWindow cmd p1 p2 p3 id chk)

/-- The encoder: the frame of an instruction under layout `l` and target `tgt`
(30_encoding.md R60, R63; 41_command_encoder.md R100). -/
def encode (l : Layout) (tgt : Half) (i : Instr) : List Byte :=
  match responseWindow i with
  | some w => w.toList
  | none => buildFrame l tgt (commandByte i) (argumentBytes i)

/-- The bytes of a table word, the first byte least significant. -/
def wordBytes (nbits w : Nat) : List Byte :=
  (List.range (nbits / 8)).map fun i => BitVec.ofNat 8 (w / 256 ^ i)

/-- The layout a command frame of this many bits is written in (00_scope.md R3: 17 or 19 bytes). -/
def layoutOfBits (nbits : Nat) : Layout := if nbits = 8 * cmdLen .l19 then .l19 else .l17

/-- The instruction the decoder reads from a word numbered as the opcode table numbers bits: a response
frame, or a command as the HOST's program names it (log entry 7). -/
def decodeTableWord (nbits w : Nat) : Option Instr :=
  if nbits = 8 * rspLen then (decodeResponse (Window.ofList (wordBytes nbits w))).toOption
  else (issuedInstruction (layoutOfBits nbits) (wordBytes nbits w)).toOption

end Sys2Proof
end

