-- ==== Sys2Proof/Machine/State.lean ====
section
/-!
DEFINITION. The machine's state, its reset, and the reasons a step can stop.
-/

namespace Sys2Proof.Machine

/-- `RXSTATE` (10_state.md R14). -/
inductive RxState
  | hunt
  | collect
  deriving DecidableEq, Repr

/-- The events of a run (60_exceptions.md R215). -/
inductive Event
  /-- A `TXWRITE` returned `ok` for a frame. -/
  | tx (frame : List Byte)
  /-- A byte was dropped in `HUNT`. -/
  | skip (b : Byte)
  /-- A candidate was discarded, with its reason code. -/
  | discard (w : Window) (reason : BitVec 3)
  /-- A candidate was accepted. -/
  | accept (w : Window)
  deriving DecidableEq, Repr

/-- The host's cache `SensorState` (44_host_sequences.md R181); `none` is "unknown", and for the ID
the value `0xFFFF` is. -/
structure SensorState where
  /-- `S.ID`. -/
  id : Half
  /-- `S.MODE`. -/
  mode : Option Byte
  /-- `S.RUN`. -/
  run : Option Byte
  /-- `S.DUTY`. -/
  duty : Option Byte
  /-- `S.FW`. -/
  fw : Option (Byte × Byte × Byte)
  deriving DecidableEq, Repr

/-- Where the HOST's request in progress stands (44_host_sequences.md R180). -/
inductive Phase
  /-- No request in progress. -/
  | idle
  /-- The command is encoded; `TXWRITE` is repeated until it returns `ok`. -/
  | writing (r : Request)
  /-- The frame is written; the wait (or for `sleep` the conclusion, R189) comes next. -/
  | arming (r : Request)
  /-- Awaiting Response. -/
  | awaiting (r : Request)
  deriving DecidableEq, Repr

/-- Where a request stands that the HOST spells out by single lines (30_encoding.md R81;
44_host_sequences.md R180): what `on_accept` will need of it (R184; log entry 26). -/
inductive LineRequest
  /-- No frame of it is written and no wait is armed. -/
  | idle
  /-- A frame with this command byte is written; its wait may come next. -/
  | written (c : Byte)
  /-- Its wait is armed; `issued` is the command byte written, `none` for `poll`. -/
  | waiting (issued : Option Byte)
  deriving DecidableEq, Repr

/-- What a request hands to its caller (44_host_sequences.md R183, R195). -/
inductive Returned
  /-- `Measurement`, concentrations in tenths (43_response_decoder.md R155, R156). -/
  | measurement (id pm25 pm10 : Half)
  /-- The acknowledged mode, run-state or duty byte. -/
  | value (b : Byte)
  /-- The firmware string (43_response_decoder.md R163). -/
  | firmware (text : List Char)
  /-- A device ID. -/
  | deviceId (id : Half)
  /-- The caller's input was rejected before any block operation (R195). -/
  | usageError
  deriving DecidableEq, Repr

/-- Reasons a machine stops with a fault: NONE. The block raises no exception, trap, fault or error to
anyone (60_exceptions.md R210); nobody raises one, which is as the spec says. -/
inductive Fault
  deriving DecidableEq, Repr

/-- Operations to which the spec gives no meaning; the run that attempts one is outside the spec
(60_exceptions.md R214). All are safe: the model stops where the hardware may go on. -/
inductive Refusal
  /-- Raised by `exec` alone, for an instruction without a meaning here; no arm does so now. Safe. -/
  | notModelled (mnemonic : String)
  /-- Raised by `ENCODE` and `RAW` for more than twelve argument bytes (R214). Safe. -/
  | tooManyArgs
  /-- Raised by `ENCODE`, every command instruction and `ARM` while `TXPEND = 1` or `ARMED = 1`
  (R214, R224). Safe. -/
  | overlappingRequest
  /-- Raised by `SET_MODE m`, `SET_RUN r`, `SET_DUTY d` for `m > 1`, `r > 1`, `d > 30` (R214). Safe. -/
  | operandRange
  /-- Raised by `ARM` for a type that is neither `0xC0` nor `0xC5` (R214). Safe. -/
  | badExpectation
  /-- Raised by `TXWRITE` while `TXPEND = 0` (R214). Safe. -/
  | nothingToSend
  /-- Raised by `TXWRITE` when the transport reports a short write without an error (R214). Safe. -/
  | shortWrite
  /-- Raised by the HOST's program line `issue` when its bytes are no command frame of the configured
  layout: the line names no instruction (log entry 7). Safe. -/
  | notACommandFrame (why : DecodeError)
  deriving DecidableEq, Repr

/-- The whole system the spec describes: the block (10_state.md), its two streams (20_memory.md), the
host (44_host_sequences.md), and the model's own input and observation fields (INVENTORY.md, State). -/
structure State where
  /-- The configuration (00_scope.md R3), written by no operation (10_state.md R24). -/
  cfg : Config
  /-- `TXBUF` (10_state.md R10). -/
  txbuf : List Byte
  /-- `TXPEND` (R11). -/
  txpend : Bool
  /-- `TGT` (R20). -/
  tgt : Half
  /-- `RXBUF` (R12). -/
  rxbuf : Window
  /-- `RXSTATE` (R14). -/
  rxstate : RxState
  /-- `RXCNT` (R15): 0 to 9, the only values it ever holds. -/
  rxcnt : Fin 10
  /-- `ARMED` (R21). -/
  armed : Bool
  /-- `EXP_TYPE` (R22). -/
  expType : Byte
  /-- `EXP_CMD` (R23). -/
  expCmd : Byte
  /-- `VERDICT` (R16): bit 4 `V_HEAD`, 3 `V_TAIL`, 2 `V_SUM`, 1 `V_TYPE`, 0 `V_CMD`. -/
  verdict : BitVec 5
  /-- `REASON` (R17). -/
  reason : BitVec 3
  /-- `RSPBUF` (R13). -/
  rspbuf : Window
  /-- `RSPVALID` (R18). -/
  rspvalid : Bool
  /-- The RX stream: bytes received and not yet taken, oldest first (20_memory.md R41). -/
  rx : List Byte
  /-- The TX history: all bytes sent, oldest first (20_memory.md R43). -/
  txHistory : List Byte
  /-- The host's `SensorState` (44_host_sequences.md R181). -/
  cache : SensorState
  /-- Where the host's request in progress stands (R180). -/
  phase : Phase
  /-- Where the host's request by single lines stands (R180, R184; log entry 26). -/
  line : LineRequest
  /-- The values returned to the caller so far, oldest first (70_reset_and_hazards.md R259). -/
  returned : List Returned
  /-- MODEL: the operations the HOST still has to issue (log entry 6). -/
  program : List HostOp
  /-- MODEL: the bytes TRANSPORT has still to append to the RX stream (log entry 6). -/
  feed : List Byte
  /-- MODEL: TRANSPORT's answers to the coming writes (log entry 13). -/
  answers : List WriteAnswer
  /-- MODEL: which agent moves next (log entry 5). -/
  schedule : List Turn
  /-- MODEL: the events so far, oldest first (60_exceptions.md R215; log entry 15). -/
  trace : List Event
  /-- MODEL: the counter behind the free values (log entries 11, 12). -/
  freeCount : Nat
  deriving DecidableEq, Repr

/-- `SensorState` at session start (44_host_sequences.md R181; 70_reset_and_hazards.md R241). -/
def SensorState.start : SensorState :=
  { id := 0xFFFF, mode := none, run := none, duty := none, fw := none }

/-- The state after reset under a configuration (10_state.md R29; 70_reset_and_hazards.md R240, R241).
`txbuf`, `rxbuf`, `rspbuf`, `expType`, `expCmd` have no value in the spec: DESIGN CHOICE zero (log
entry 1). The RX content is unspecified: DESIGN CHOICE empty (log entry 2). -/
def State.initial (cfg : Config) : State :=
  { cfg := cfg
    txbuf := zeros (cmdLen cfg.layout), txpend := false, tgt := cfg.tgtReset
    rxbuf := Window.zero, rxstate := .hunt, rxcnt := 0
    armed := false, expType := 0, expCmd := 0
    verdict := 0b00000, reason := 0
    rspbuf := Window.zero, rspvalid := false
    rx := [], txHistory := []
    cache := SensorState.start, phase := .idle, line := .idle, returned := []
    program := [], feed := [], answers := [], schedule := []
    trace := [], freeCount := 0 }

/-- The machine right after reset, every parameter at its default. -/
def State.reset : State := State.initial Config.standard

end Sys2Proof.Machine
end

