-- ==== Sys2Proof/Machine/Operands.lean ====
section
/-!
DEFINITION. Field extraction from a response window (43_response_decoder.md R155 to R166).
-/

namespace Sys2Proof.Machine

/-- `RSP_TYPE` (10_state.md R25). -/
def rspType (w : Window) : Byte := w.b1

/-- `RSP_ID`, for a frame of either type (43_response_decoder.md R157, R166). -/
def rspId (w : Window) : Half := u16le (w.p rspOffId) (w.p (rspOffId + 1))

/-- `MEAS_PM25`, in tenths (R155). -/
def measPm25 (w : Window) : Half := u16le w.b2 w.b3

/-- `MEAS_PM10`, in tenths (R155). -/
def measPm10 (w : Window) : Half := u16le w.b4 w.b5

/-- `ACK_CMD`, the echoed command byte (R157). -/
def ackCmd (cfg : Config) (w : Window) : Byte := w.p cfg.ackOffCmd

/-- `ACK_SUB`, the echoed sub-opcode (R157). -/
def ackSub (cfg : Config) (w : Window) : Byte := w.p cfg.ackOffSub

/-- `ACK_VAL`, the acknowledged value (R157). -/
def ackVal (cfg : Config) (w : Window) : Byte := w.p cfg.ackOffVal

/-- `FW_YEAR` (R161). -/
def fwYear (cfg : Config) (w : Window) : Byte := w.p cfg.ackOffFw

/-- `FW_MONTH` (R161). -/
def fwMonth (cfg : Config) (w : Window) : Byte := w.p (cfg.ackOffFw + 1)

/-- `FW_DAY` (R161). -/
def fwDay (cfg : Config) (w : Window) : Byte := w.p (cfg.ackOffFw + 2)

/-- The response form of an accepted frame: its type and, for an ack, the command byte found at the
configured echo position (30_encoding.md R74; 43_response_decoder.md R158 to R164). -/
def responseForm (cfg : Config) (w : Window) : RspForm :=
  if rspType w = typeMeas then .meas
  else if ackCmd cfg w = 0x02 then .ackMode
  else if ackCmd cfg w = 0x05 then .ackId
  else if ackCmd cfg w = 0x06 then .ackRun
  else if ackCmd cfg w = 0x07 then .ackFw
  else if ackCmd cfg w = 0x08 then .ackDuty
  else .ackOther

/-- The two modes that have names (00_scope.md R3; 43_response_decoder.md R158). -/
inductive ModeName
  | active
  | query
  deriving DecidableEq, Repr

/-- The name of a mode byte; other values have none (43_response_decoder.md R158, R165). -/
def modeName (cfg : Config) (b : Byte) : Option ModeName :=
  if b = cfg.modeActive then some .active else if b = cfg.modeQuery then some .query else none

/-- The two run-states that have names (43_response_decoder.md R160). -/
inductive RunName
  | sleep
  | wake
  deriving DecidableEq, Repr

/-- The name of a run-state byte; other values have none (43_response_decoder.md R160, R165). -/
def runName (b : Byte) : Option RunName :=
  if b = 0 then some .sleep else if b = 1 then some .wake else none

/-- A raw concentration in tenths as whole units and the decimal digit after the point
(43_response_decoder.md R156). -/
def tenths (raw : Half) : Nat × Nat := (raw.toNat / 10, raw.toNat % 10)

/-- A decimal digit as a character. -/
def digit (n : Nat) : Char := Char.ofNat (48 + n)

/-- `dec2(v)`: decimal, at least two digits (43_response_decoder.md R163). -/
def dec2 (v : Byte) : List Char :=
  if v.toNat < 100 then [digit (v.toNat / 10), digit (v.toNat % 10)]
  else [digit (v.toNat / 100), digit (v.toNat / 10 % 10), digit (v.toNat % 10)]

/-- `fw_string(y, m, d)` (43_response_decoder.md R163), as a list of characters (log entry 23). -/
def fwString (y m d : Byte) : List Char :=
  ['2', '0'] ++ dec2 y ++ ['.'] ++ dec2 m ++ ['.'] ++ dec2 d

end Sys2Proof.Machine
end

