-- ==== Sys2Proof/Machine/Flags.lean ====
section
/-!
DEFINITION. VERDICT and REASON: the validation predicate (43_response_decoder.md R150).
-/

namespace Sys2Proof.Machine

/-- The clause `head == 0xAA`. -/
def headClause (w : Window) : Bool := decide (w.b0 = headByte)

/-- The clause `tail == 0xAB`. -/
def tailClause (w : Window) : Bool := decide (w.b9 = tailByte)

/-- The clause `checksum(payload) == carried_checksum`. -/
def sumClause (w : Window) : Bool := decide (checksum w.payload = w.b8)

/-- The clause "response_type matches expectation". -/
def typeClause (w : Window) (ty : Byte) : Bool := decide (w.b1 = ty)

/-- The clause "command_byte matches, when applicable": applicable when an ack is expected. -/
def cmdClause (cfg : Config) (w : Window) (ty c : Byte) : Bool :=
  decide (ty ≠ typeAck) || decide (ackCmd cfg w = c)

/-- The five clause bits, bit 4 down to bit 0 (10_state.md R16). -/
def verdictBits (head tail sum type cmd : Bool) : BitVec 5 :=
  BitVec.ofBool head ++ BitVec.ofBool tail ++ BitVec.ofBool sum ++ BitVec.ofBool type ++
    BitVec.ofBool cmd

/-- `verdict(C, ty, c)`: all five clauses, none skipped (43_response_decoder.md R150). -/
def verdictOf (cfg : Config) (w : Window) (ty c : Byte) : BitVec 5 :=
  verdictBits (headClause w) (tailClause w) (sumClause w) (typeClause w ty) (cmdClause cfg w ty c)

/-- `reason(V)`: the code of the first failing clause in the written order, 0 when none fails
(43_response_decoder.md R150; 60_exceptions.md R213). -/
def reasonOf (v : BitVec 5) : BitVec 3 :=
  if v.getLsbD 4 = false then 1
  else if v.getLsbD 3 = false then 2
  else if v.getLsbD 2 = false then 3
  else if v.getLsbD 1 = false then 4
  else if v.getLsbD 0 = false then 5
  else 0

/-- The accepting verdict (10_state.md R16). -/
def acceptVerdict : BitVec 5 := 0b11111

end Sys2Proof.Machine
end

