-- ==== Sys2Proof/Machine/Ops.lean ====
section
/-!
DEFINITION. The named updates of State and the block's shared operations.

The block takes no exception and returns from none (60_exceptions.md R210, R218, R219): what stands in
the place of one is `discardWindow`, the only reaction to a bad frame (R212).
-/

namespace Sys2Proof.Machine

/-- The outcome of one step of this machine. -/
abbrev Result := Host.Outcome State Fault Refusal

/-- Change the next state of an outcome; a fault or a refusal stays. -/
def thenNext (o : Result) (f : State → State) : Result :=
  match o with
  | .next s => .next (f s)
  | .fault r => .fault r
  | .refused r => .refused r

/-! ### Named updates -/

/-- Add an event to the trace: `emit` (60_exceptions.md R215). -/
def State.emit (s : State) (e : Event) : State := { s with trace := s.trace ++ [e] }

/-- Hold a frame that must go out: `TXBUF <- F`, `TXPEND <- 1` (41_command_encoder.md R100). -/
def State.loadFrame (s : State) (f : List Byte) : State := { s with txbuf := f, txpend := true }

/-- `TGT <- t` (41_command_encoder.md R114). -/
def State.setTgt (s : State) (t : Half) : State := { s with tgt := t }

/-- The frame of TXBUF went out whole (20_memory.md R43; 41_command_encoder.md R112). -/
def State.frameSent (s : State) : State :=
  { s with txpend := false, txHistory := s.txHistory ++ s.txbuf }

/-- The write failed after `sent` bytes of TXBUF reached the wire (20_memory.md R43). -/
def State.frameFailed (s : State) (sent : Nat) : State :=
  { s with txHistory := s.txHistory ++ s.txbuf.take sent }

/-- Latch an expectation and start waiting (42_resynchronizer.md R130). -/
def State.latchExpectation (s : State) (ty c : Byte) : State :=
  { s with expType := ty, expCmd := c, rspvalid := false, armed := true }

/-- The RX stream holds these bytes. -/
def State.withRx (s : State) (bs : List Byte) : State := { s with rx := bs }

/-- The head byte is stored and collecting begins (42_resynchronizer.md R132). -/
def State.startWindow (s : State) : State :=
  { s with rxbuf := s.rxbuf.set 0 headByte, rxcnt := 1, rxstate := .collect }

/-- A byte is stored at the position counter, which moves to `n` (42_resynchronizer.md R133). -/
def State.storeByte (s : State) (b : Byte) (n : Fin 10) : State :=
  { s with rxbuf := s.rxbuf.set s.rxcnt b, rxcnt := n }

/-- A candidate is complete: it stands in RXBUF and the decoder is back in `HUNT`
(42_resynchronizer.md R133). -/
def State.closeWindow (s : State) (w : Window) : State :=
  { s with rxbuf := w, rxcnt := 0, rxstate := .hunt }

/-- `VERDICT <- v`, `REASON <- r` (43_response_decoder.md R150). -/
def State.setVerdict (s : State) (v : BitVec 5) (r : BitVec 3) : State :=
  { s with verdict := v, reason := r }

/-- `RSPBUF <- C`, `RSPVALID <- 1`, `ARMED <- 0` (43_response_decoder.md R152). -/
def State.holdResponse (s : State) (w : Window) : State :=
  { s with rspbuf := w, rspvalid := true, armed := false }

/-- The host's cache becomes `c`. -/
def State.withCache (s : State) (c : SensorState) : State := { s with cache := c }

/-- The host's request in progress moves to a phase. -/
def State.withPhase (s : State) (p : Phase) : State := { s with phase := p }

/-- The host's request by single lines moves on. -/
def State.withLine (s : State) (l : LineRequest) : State := { s with line := l }

/-- A value is handed to the caller. -/
def State.deliver (s : State) (v : Returned) : State := { s with returned := s.returned ++ [v] }

/-- The HOST's remaining program. -/
def State.withProgram (s : State) (p : List HostOp) : State := { s with program := p }

/-- TRANSPORT's remaining feed. -/
def State.withFeed (s : State) (bs : List Byte) : State := { s with feed := bs }

/-- TRANSPORT's remaining answers. -/
def State.withAnswers (s : State) (as : List WriteAnswer) : State := { s with answers := as }

/-- The remaining schedule. -/
def State.withSchedule (s : State) (ts : List Turn) : State := { s with schedule := ts }

/-- One free value has been used. -/
def State.useFree (s : State) : State := { s with freeCount := s.freeCount + 1 }

/-! ### ENC -/

/-- `ENCODE c, [a...]` (41_command_encoder.md R100). -/
def encodeOp (c : Byte) (args : List Byte) (s : State) : Result :=
  if 12 < args.length then .refused .tooManyArgs
  else if s.txpend ∨ s.armed then .refused .overlappingRequest
  else .next (s.loadFrame (buildFrame s.cfg.layout s.tgt c args))

/-- `TXWRITE`, with TRANSPORT's answer (41_command_encoder.md R112; 20_memory.md R43, R45). -/
def txWriteOp (a : WriteAnswer) (s : State) : Result :=
  if s.txpend = false then .refused .nothingToSend
  else match a with
    | .ok => .next (s.frameSent.emit (.tx s.txbuf))
    | .error sent => .next (s.frameFailed sent)
    | .short _ => .refused .shortWrite

/-! ### DEC: arming and what happens to a completed candidate -/

/-- `ARM ty, c` (42_resynchronizer.md R130). -/
def armOp (ty c : Byte) (s : State) : Result :=
  if ty ≠ typeMeas ∧ ty ≠ typeAck then .refused .badExpectation
  else if s.armed ∨ s.txpend then .refused .overlappingRequest
  else .next (s.latchExpectation ty c)

/-- `accept(C)` (43_response_decoder.md R152). -/
def acceptWindow (w : Window) (s : State) : State := (s.holdResponse w).emit (.accept w)

/-- `discard(C, r)` (43_response_decoder.md R153; 60_exceptions.md R212). -/
def discardWindow (w : Window) (r : BitVec 3) (s : State) : State := s.emit (.discard w r)

/-- `complete(C)`: verdict and reason are recorded, then the candidate is accepted or discarded
(43_response_decoder.md R150). -/
def completeWindow (w : Window) (s : State) : State :=
  let v := verdictOf s.cfg w s.expType s.expCmd
  let judged := s.setVerdict v (reasonOf v)
  if v = acceptVerdict then acceptWindow w judged else discardWindow w (reasonOf v) judged

/-- The transition in which the decoder takes the tenth byte of the window `w`
(42_resynchronizer.md R133). While `ARMED = 0` the decoder has no step (R137): nothing changes. -/
def receiveWindow (w : Window) (s : State) : Result :=
  if s.armed = false then .next s
  else .next (completeWindow w (s.closeWindow w))

/-! ### TRANSPORT -/

/-- The bytes of a list that are not lost, the first byte standing at position `i`. -/
def survivors (lost : Nat → Bool) : Nat → List Byte → List Byte
  | _, [] => []
  | i, b :: bs => if lost i then survivors lost (i + 1) bs else b :: survivors lost (i + 1) bs

/-- A byte arrives at the tail of the RX stream (20_memory.md R41). Past `RX_FIFO_DEPTH` bytes, which
bytes are lost is a FREE VALUE (93_implementation_defined.md U6; log entry 11). -/
def arrive (b : Byte) (s : State) : State :=
  match s.cfg.rxFifoDepth with
  | none => s.withRx (s.rx ++ [b])
  | some depth =>
    if s.rx.length < depth then s.withRx (s.rx ++ [b])
    else (s.withRx ((survivors (Config.overflowLoses s.freeCount) 0 (s.rx ++ [b])).take depth)).useFree

/-! ### Reset -/

/-- The reset event (70_reset_and_hazards.md R240 to R242): the block and the session start anew, the
RX stream keeps its bytes, and what the outside world has still to do is untouched (log entry 18). -/
def resetEvent (s : State) : State :=
  { State.initial s.cfg with
    rx := s.rx, returned := s.returned, program := s.program, feed := s.feed,
    answers := s.answers, schedule := s.schedule, trace := s.trace, freeCount := s.freeCount }

end Sys2Proof.Machine
end

