-- ==== Sys2Proof/Machine/Commands.lean ====
section
/-!
DEFINITION. The command instructions (41_command_encoder.md R102 to R111).
-/

namespace Sys2Proof.Machine

/-- `GET_MODE`: `ENCODE 0x02, [0x00]` (R103). -/
def execGetMode (s : State) : Result := encodeOp 0x02 [0x00] s

/-- `SET_MODE m`: `ENCODE 0x02, [0x01, m]`, `m` at most 1 (R104). -/
def execSetMode (m : Byte) (s : State) : Result :=
  if 1 < m.toNat then .refused .operandRange else encodeOp 0x02 [0x01, m] s

/-- `QUERY`: `ENCODE 0x04, []` (R105). -/
def execQuery (s : State) : Result := encodeOp 0x04 [] s

/-- `SET_ID n`: `ENCODE 0x05, [ten zeros, lo8(n), hi8(n)]` (R106). -/
def execSetId (n : Half) (s : State) : Result := encodeOp 0x05 (zeros 10 ++ [lo8 n, hi8 n]) s

/-- `GET_RUN`: `ENCODE 0x06, [0x00]` (R107). -/
def execGetRun (s : State) : Result := encodeOp 0x06 [0x00] s

/-- `SET_RUN r`: `ENCODE 0x06, [0x01, r]`, `r` at most 1 (R108). -/
def execSetRun (r : Byte) (s : State) : Result :=
  if 1 < r.toNat then .refused .operandRange else encodeOp 0x06 [0x01, r] s

/-- `GET_FW`: `ENCODE 0x07, []` (R109). -/
def execGetFw (s : State) : Result := encodeOp 0x07 [] s

/-- `GET_DUTY`: `ENCODE 0x08, [0x00]` (R110). -/
def execGetDuty (s : State) : Result := encodeOp 0x08 [0x00] s

/-- `SET_DUTY d`: `ENCODE 0x08, [0x01, d]`, `d` at most 30 (R111). -/
def execSetDuty (d : Byte) (s : State) : Result :=
  if 30 < d.toNat then .refused .operandRange else encodeOp 0x08 [0x01, d] s

/-- `RAW c, [a...]`: `ENCODE c, [a...]` with no restriction (R102). -/
def execRaw (c : Byte) (args : List Byte) (s : State) : Result := encodeOp c args s

end Sys2Proof.Machine
end

