-- ==== Sys2Proof/Machine/Responses.lean ====
section
/-!
DEFINITION. The response instructions (43_response_decoder.md R155 to R164): each is the transition in
which the decoder takes the tenth byte of the frame of that row (log entry 8). What an accepted frame
delivers is read from RSPBUF by the functions of Operands.lean.
-/

namespace Sys2Proof.Machine

/-- `MEAS` (R155). -/
def execMeas (pm25 pm10 id : Half) (chk : Byte) (s : State) : Result :=
  receiveWindow (measWindow pm25 pm10 id chk) s

/-- `ACK_MODE` (R158). -/
def execAckMode (sub mode p3 : Byte) (id : Half) (chk : Byte) (s : State) : Result :=
  receiveWindow (ackWindow 0x02 sub mode p3 id chk) s

/-- `ACK_ID` (R159). -/
def execAckId (p1 p2 p3 : Byte) (id : Half) (chk : Byte) (s : State) : Result :=
  receiveWindow (ackWindow 0x05 p1 p2 p3 id chk) s

/-- `ACK_RUN` (R160). -/
def execAckRun (sub run p3 : Byte) (id : Half) (chk : Byte) (s : State) : Result :=
  receiveWindow (ackWindow 0x06 sub run p3 id chk) s

/-- `ACK_FW` (R161). -/
def execAckFw (year month day : Byte) (id : Half) (chk : Byte) (s : State) : Result :=
  receiveWindow (ackWindow 0x07 year month day id chk) s

/-- `ACK_DUTY` (R162). -/
def execAckDuty (sub duty p3 : Byte) (id : Half) (chk : Byte) (s : State) : Result :=
  receiveWindow (ackWindow 0x08 sub duty p3 id chk) s

/-- `ACK_OTHER` (R164). -/
def execAckOther (cmd p1 p2 p3 : Byte) (id : Half) (chk : Byte) (s : State) : Result :=
  receiveWindow (ackWindow cmd p1 p2 p3 id chk) s

end Sys2Proof.Machine
end

