-- ==== Sys2Proof/Machine/Dispatch.lean ====
section
/-!
DEFINITION. The meaning of every instruction, one arm per constructor.
-/

namespace Sys2Proof.Machine

def exec (i : Instr) (s : State) : Host.Outcome State Fault Refusal :=
  match i with
  | .getMode => Sys2Proof.Machine.execGetMode s
  | .setMode m => Sys2Proof.Machine.execSetMode m s
  | .query => Sys2Proof.Machine.execQuery s
  | .setId n => Sys2Proof.Machine.execSetId n s
  | .getRun => Sys2Proof.Machine.execGetRun s
  | .setRun r => Sys2Proof.Machine.execSetRun r s
  | .getFw => Sys2Proof.Machine.execGetFw s
  | .getDuty => Sys2Proof.Machine.execGetDuty s
  | .setDuty d => Sys2Proof.Machine.execSetDuty d s
  | .raw c args => Sys2Proof.Machine.execRaw c args s
  | .meas pm25 pm10 id chk => Sys2Proof.Machine.execMeas pm25 pm10 id chk s
  | .ackMode sub mode p3 id chk => Sys2Proof.Machine.execAckMode sub mode p3 id chk s
  | .ackId p1 p2 p3 id chk => Sys2Proof.Machine.execAckId p1 p2 p3 id chk s
  | .ackRun sub run p3 id chk => Sys2Proof.Machine.execAckRun sub run p3 id chk s
  | .ackFw year month day id chk => Sys2Proof.Machine.execAckFw year month day id chk s
  | .ackDuty sub duty p3 id chk => Sys2Proof.Machine.execAckDuty sub duty p3 id chk s
  | .ackOther cmd p1 p2 p3 id chk => Sys2Proof.Machine.execAckOther cmd p1 p2 p3 id chk s

end Sys2Proof.Machine
end

