-- ==== Sys2Proof/Machine/Receive.lean ====
section
/-!
DEFINITION. The byte step of the agent DEC and the frame-level scan (42_resynchronizer.md).
-/

namespace Sys2Proof.Machine

/-- The tenth byte is in: the candidate `w` is decoded and its instruction runs. A window that is no
row's frame is treated as noise by the same transition (30_encoding.md R77). -/
def finishWindow (w : Window) (s : State) : Result :=
  match decodeResponse w with
  | .ok i => exec i s
  | .error _ => receiveWindow w s

/-- `RXBYTE` with the byte taken from the stream (42_resynchronizer.md R131 to R133). -/
def rxByteOp (b : Byte) (s : State) : Result :=
  match s.rxstate with
  | .hunt => if b = headByte then .next s.startWindow else .next (s.emit (.skip b))
  | .collect =>
    if h : s.rxcnt.val < 9 then .next (s.storeByte b ⟨s.rxcnt.val + 1, by omega⟩)
    else finishWindow (s.rxbuf.set 9 b) s

/-- DEC has a step: `ARMED = 1` and the RX stream is not empty (42_resynchronizer.md R131, R137). -/
def decReady (s : State) : Bool := s.armed && !s.rx.isEmpty

/-- DEC's turn: take the byte at the head of the RX stream and run `RXBYTE`; where DEC has no step,
nothing changes (20_memory.md R42; 42_resynchronizer.md R137). -/
def decStep (s : State) : Result :=
  match s.armed, s.rx with
  | true, b :: rest => rxByteOp b (s.withRx rest)
  | _, _ => .next s

/-- What `decode_response` answers (42_resynchronizer.md R138). -/
inductive Scan
  /-- No frame yet. -/
  | resynchronizing
  /-- A candidate, and the bytes after it. -/
  | frame (w : Window) (rest : List Byte)
  deriving DecidableEq, Repr

/-- `decode_response(S)`: skip to the head byte, then take exactly nine more bytes
(42_resynchronizer.md R138). -/
def scanResponse : List Byte → Scan
  | [] => .resynchronizing
  | b :: bs =>
    if b = headByte then
      if bs.length < 9 then .resynchronizing
      else .frame (Window.ofList (b :: bs.take 9)) (bs.drop 9)
    else scanResponse bs

end Sys2Proof.Machine
end

