-- ==== Sys2Proof/Machine/Session.lean ====
section
/-!
DEFINITION. The agent HOST: the block's operations as a program, and the sequences of the Sensor
Session (44_host_sequences.md).
-/

namespace Sys2Proof.Machine

/-- The caller's input validation: duty above 30, ID above `0xFFFF` (R195). -/
def usageRejected : Request → Bool
  | .poll => false
  | .query => false
  | .getMode => false
  | .setMode _ => false
  | .getRun => false
  | .setRun _ => false
  | .getDuty => false
  | .setDuty d => decide (30 < d)
  | .getFirmware => false
  | .getId => false
  | .setId n => decide (0xFFFF < n)

/-- The command instruction a request issues first; `poll` issues none (R185 to R192). -/
def commandOf : Request → Option Instr
  | .poll => none
  | .query => some .query
  | .getMode => some .getMode
  | .setMode m => some (.setMode m)
  | .getRun => some .getRun
  | .setRun r => some (.setRun r)
  | .getDuty => some .getDuty
  | .setDuty d => some (.setDuty (BitVec.ofNat 8 d))
  | .getFirmware => some .getFw
  | .getId => some .getFw
  | .setId n => some (.setId (BitVec.ofNat 16 n))

/-- The command byte written, `none` for `poll` (R184). -/
def issuedByte (r : Request) : Option Byte := (commandOf r).map commandByte

/-- What the host waits for after a command (R183). -/
inductive Expectation
  | meas
  | ack (c : Byte)
  deriving DecidableEq, Repr

/-- The expectation of each request; `none` where the host does not wait, which is `sleep` alone
(R183, R189). -/
def expectationOf : Request → Option Expectation
  | .poll => some .meas
  | .query => some .meas
  | .getMode => some (.ack 2)
  | .setMode _ => some (.ack 2)
  | .getRun => some (.ack 6)
  | .setRun r => if r = 0 then none else some (.ack 6)
  | .getDuty => some (.ack 8)
  | .setDuty _ => some (.ack 8)
  | .getFirmware => some (.ack 7)
  | .getId => some (.ack 7)
  | .setId _ => some (.ack 5)

/-- A getter's answer from the cache, where its field is known; setters, `poll` and `query` have none
(R193). -/
def cachedValue (c : SensorState) : Request → Option Returned
  | .poll => none
  | .query => none
  | .getMode => c.mode.map .value
  | .setMode _ => none
  | .getRun => c.run.map .value
  | .setRun _ => none
  | .getDuty => c.duty.map .value
  | .setDuty _ => none
  | .getFirmware => c.fw.map fun t => .firmware (fwString t.1 t.2.1 t.2.2)
  | .getId => if c.id = 0xFFFF then none else some (.deviceId c.id)
  | .setId _ => none

/-- The caching policy: with `TRACK = 1` a getter answers from the cache if it can (R193). -/
def cachedAnswer (s : State) (r : Request) : Option Returned :=
  if s.cfg.track then cachedValue s.cache r else none

/-- `on_accept(issued)`: the cache after an accepted frame (R184). -/
def refreshCache (cfg : Config) (issued : Option Byte) (w : Window) (c : SensorState) : SensorState :=
  { id := rspId w
    mode := if issued = some 2 then some (ackVal cfg w) else c.mode
    run := if issued = some 6 then some (ackVal cfg w) else c.run
    duty := if issued = some 8 then some (ackVal cfg w) else c.duty
    fw := if issued = some 7 then some (fwYear cfg w, fwMonth cfg w, fwDay cfg w) else c.fw }

/-- The value a request returns from an accepted frame (R183, R190 to R192). -/
def resultOf (cfg : Config) (w : Window) : Request → Returned
  | .poll => .measurement (rspId w) (measPm25 w) (measPm10 w)
  | .query => .measurement (rspId w) (measPm25 w) (measPm10 w)
  | .getMode => .value (ackVal cfg w)
  | .setMode _ => .value (ackVal cfg w)
  | .getRun => .value (ackVal cfg w)
  | .setRun _ => .value (ackVal cfg w)
  | .getDuty => .value (ackVal cfg w)
  | .setDuty _ => .value (ackVal cfg w)
  | .getFirmware => .firmware (fwString (fwYear cfg w) (fwMonth cfg w) (fwDay cfg w))
  | .getId => .deviceId (rspId w)
  | .setId _ => .deviceId (rspId w)

/-- `on_accept(issued)` on the host's cache (R184). -/
def onAccept (issued : Option Byte) (s : State) : State :=
  s.withCache (refreshCache s.cfg issued s.rspbuf s.cache)

/-- `ARM` with an expectation of the host's. The command byte handed to `ARM MEAS` is a FREE VALUE
(10_state.md R23; log entry 12). -/
def armExpectation (e : Expectation) (s : State) : Result :=
  match e with
  | .meas => armOp typeMeas (Config.freeByte s.freeCount) s.useFree
  | .ack c => armOp typeAck c s

/-- The first block operation of a request (R185 to R192). It ends a request by lines of which only the
frame was written (log entry 26). -/
def startRequest (r : Request) (s : State) : Result :=
  match commandOf r with
  | none => thenNext (armExpectation .meas s) fun t => (t.withLine .idle).withPhase (.awaiting r)
  | some i => thenNext (exec i s) fun t => (t.withLine .idle).withPhase (.writing r)

/-- A request is called: the caller's validation, then the cache, then the exchange
(R193, R195; log entry 17). -/
def callRequest (r : Request) (s : State) : Result :=
  if usageRejected r then .next (s.deliver .usageError)
  else match cachedAnswer s r with
    | some v => .next (s.deliver v)
    | none => startRequest r s

/-- One `TXWRITE` of a request; on `ok` the request goes on, on an error it will be tried again
(41_command_encoder.md R113). -/
def writeRequest (r : Request) (a : WriteAnswer) (s : State) : Result :=
  thenNext (txWriteOp a s) fun t => if t.txpend then t else t.withPhase (.arming r)

/-- `sleep` ends without a wait: `S.RUN <- 0; return 0` (R189). -/
def finishSleep (s : State) : State :=
  ((s.withCache { s.cache with run := some 0 }).deliver (.value 0)).withPhase .idle

/-- After the write: `ARM` with the request's expectation, or the end of `sleep` (R180, R189). -/
def beginWait (r : Request) (s : State) : Result :=
  match expectationOf r with
  | none => .next (finishSleep s)
  | some e => thenNext (armExpectation e s) fun t => t.withPhase (.awaiting r)

/-- "Response Accepted": update the cache, return the decoded value, back to Idle (R180, R184). -/
def finishRequest (r : Request) (s : State) : State :=
  ((onAccept (issuedByte r) s).deliver (resultOf s.cfg s.rspbuf r)).withPhase .idle

/-! ### Requests by single lines

R81 writes each request as the lines of its expansion, and 95_test_vectors.md its programs; the host does
for them what R184 and R189 say. What the lines do not name is log entry 26. -/

/-- The request whose expansion writes this command byte, `none` for `poll`'s (R81, R183). The lines of
`get_firmware` and `get_id` are the same: DESIGN CHOICE `get_firmware` (log entry 26). -/
def requestOfIssued : Option Byte → Option Request
  | none => some .poll
  | some c =>
    if c = 2 then some .getMode
    else if c = 4 then some .query
    else if c = 5 then some (.setId 0)
    else if c = 6 then some .getRun
    else if c = 7 then some .getFirmware
    else if c = 8 then some .getDuty
    else none

/-- The latched expectation is the one R183 gives this request. -/
def expectationArmed (s : State) (r : Request) : Bool :=
  match expectationOf r with
  | none => false
  | some .meas => decide (s.expType = typeMeas)
  | some (.ack c) => decide (s.expType = typeAck ∧ s.expCmd = c)

/-- What a request by lines returns from its accepted frame; nothing where R183 has no row for the command
written and the expectation armed. -/
def lineResult (issued : Option Byte) (s : State) : Option Returned :=
  match requestOfIssued issued with
  | none => none
  | some r => if expectationArmed s r then some (resultOf s.cfg s.rspbuf r) else none

/-- The wait armed by a line has its accepted frame, and `on_accept` with this operand is due
(R180, R184). -/
def acceptedLine (s : State) : Option (Option Byte) :=
  match s.line with
  | .idle => none
  | .written _ => none
  | .waiting issued => if s.armed = false ∧ s.rspvalid = true then some issued else none

/-- "Response Accepted" of a request by lines: `on_accept(issued)`, and the decoded value is returned
(R180, R184). -/
def finishLine (issued : Option Byte) (s : State) : State :=
  match lineResult issued s with
  | some v => ((onAccept issued s).deliver v).withLine .idle
  | none => (onAccept issued s).withLine .idle

/-- The frame is that of "set run-state to Sleep" (R189). -/
def isSleepFrame (l : Layout) (f : List Byte) : Bool :=
  match issuedInstruction l f with
  | .ok i => decide (i = .setRun 0)
  | .error _ => false

/-- A line `TXWRITE`: once the frame is out its command byte is that of the request, and a sleep frame
ends the request at once, `S.RUN <- 0; return 0` (R184, R189). -/
def writeLine (a : WriteAnswer) (s : State) : Result :=
  thenNext (txWriteOp a s) fun t =>
    if t.txpend then t
    else if isSleepFrame t.cfg.layout t.txbuf then (finishSleep t).withLine .idle
    else t.withLine (.written (byteAt t.txbuf 2))

/-- The operand of `on_accept` for a wait armed now: the command byte written, `none` where none was
(R184). -/
def lineIssued : LineRequest → Option Byte
  | .idle => none
  | .written c => some c
  | .waiting _ => none

/-- A line `ARM`: the wait of the request by lines begins (R180). -/
def armLine (ty c : Byte) (s : State) : Result :=
  thenNext (armOp ty c s) fun t => t.withLine (.waiting (lineIssued s.line))

/-- The HOST issues one operation of its program; `rest` is what remains. A `TXWRITE` without an
answer and an `AWAIT` while `ARMED = 1` block: nothing changes (20_memory.md R40;
42_resynchronizer.md R139). What the host notes of a request by lines is in `writeLine` and `armLine`. -/
def hostOperation (op : HostOp) (rest : List HostOp) (s : State) : Result :=
  match op with
  | .issue frame =>
    match issuedInstruction s.cfg.layout frame with
    | .ok i => exec i (s.withProgram rest)
    | .error e => .refused (.notACommandFrame e)
  | .encode c args => encodeOp c args (s.withProgram rest)
  | .setTgt t => .next ((s.withProgram rest).setTgt t)
  | .txWrite =>
    if s.txpend = false then .refused .nothingToSend
    else match s.answers with
      | [] => .next s
      | a :: as => writeLine a ((s.withProgram rest).withAnswers as)
  | .arm ty c => armLine ty c (s.withProgram rest)
  | .await => if s.armed then .next s else .next (s.withProgram rest)
  | .call r => callRequest r (s.withProgram rest)

/-- HOST has a step. -/
def hostReady (s : State) : Bool :=
  match s.phase with
  | .idle =>
    (acceptedLine s).isSome ||
      match s.program with
      | [] => false
      | .txWrite :: _ => !s.txpend || !s.answers.isEmpty
      | .await :: _ => !s.armed
      | _ :: _ => true
  | .writing _ => !s.answers.isEmpty
  | .arming _ => true
  | .awaiting _ => !s.armed && s.rspvalid

/-- HOST's turn: go on with the request in progress, take the accepted response of one by lines, or issue
the next operation of the program (R180, R184); where HOST is blocked, nothing changes. -/
def hostStep (s : State) : Result :=
  match s.phase with
  | .idle =>
    match acceptedLine s with
    | some issued => .next (finishLine issued s)
    | none =>
      match s.program with
      | [] => .next s
      | op :: rest => hostOperation op rest s
  | .writing r =>
    match s.answers with
    | [] => .next s
    | a :: as => writeRequest r a (s.withAnswers as)
  | .arming r => beginWait r s
  | .awaiting r => if s.armed = false ∧ s.rspvalid = true then .next (finishRequest r s) else .next s

end Sys2Proof.Machine
end

