-- ==== Sys2Proof/Machine/Agents.lean ====
section
/-!
DEFINITION. Which agent moves (00_scope.md R9; 60_exceptions.md R217), and how an instruction is put
where the next step fetches it.
-/

namespace Sys2Proof.Machine

/-- TRANSPORT has a byte to append. -/
def transportReady (s : State) : Bool := !s.feed.isEmpty

/-- TRANSPORT's turn: append the next byte of its feed (20_memory.md R41). -/
def transportStep (s : State) : Result :=
  match s.feed with
  | [] => .next s
  | b :: rest => .next (arrive b (s.withFeed rest))

/-- One turn of the schedule. A read that fails delivers no byte and changes nothing
(20_memory.md R44). -/
def takeTurn (t : Turn) (s : State) : Result :=
  match t with
  | .host => hostStep s
  | .dec => decStep s
  | .readFails => .next s
  | .transport => transportStep s
  | .reset => .next (resetEvent s)

/-- With nothing scheduled: HOST, then DEC, then TRANSPORT, whichever has a step; where none has, the
machine is blocked or quiescent and stands still (70_reset_and_hazards.md R252, R259; log entry 5). -/
def autonomousStep (s : State) : Result :=
  if hostReady s then hostStep s
  else if decReady s then decStep s
  else if transportReady s then transportStep s
  else .next s

/-- The next atomic transition (00_scope.md R8). -/
def systemStep (s : State) : Result :=
  match s.schedule with
  | t :: rest => takeTurn t (s.withSchedule rest)
  | [] => autonomousStep s

/-- Configure the command layout before a run (70_reset_and_hazards.md R243); TXBUF gets the width of
the layout when that changes (log entry 21). -/
def State.configureLayout (s : State) (l : Layout) : State :=
  if s.cfg.layout = l then s
  else { s with cfg := { s.cfg with layout := l }, txbuf := zeros (cmdLen l) }

/-- The HOST's next operation is the command instruction of this frame, with no request in progress (log
entry 6). -/
def State.placeCommand (s : State) (f : List Byte) : State :=
  { s with
    program := .issue f :: s.program, phase := .idle, line := .idle, schedule := .host :: s.schedule }

/-- DEC is armed for the window's type and echo, has collected its first nine bytes, and meets the
tenth (log entry 6). -/
def State.placeResponse (s : State) (w : Window) : State :=
  { s with
    armed := true, rspvalid := false, expType := w.b1, expCmd := ackCmd s.cfg w
    rxbuf := w, rxstate := .collect, rxcnt := 9, rx := w.b9 :: s.rx
    schedule := .dec :: s.schedule }

/-- Put the instruction of a table word where the next step fetches it. -/
def State.placeWord (s : State) (nbits w : Nat) : State :=
  if nbits = 8 * rspLen then s.placeResponse (Window.ofList (wordBytes nbits w))
  else (s.configureLayout (layoutOfBits nbits)).placeCommand (wordBytes nbits w)

end Sys2Proof.Machine
end

