-- ==== Sys2Proof/Machine/Step.lean ====
section
/-!
DEFINITION. The machine's step.
-/

namespace Sys2Proof.Machine

/-- One atomic transition of the system (00_scope.md R8): the next turn of the schedule, or the first
agent that can move. -/
def step (s : State) : Host.Outcome State Fault Refusal := systemStep s

/-- `s` with the instruction of the table word `w` placed where the next step fetches it (log entry 6). -/
def State.withFetchWord (s : State) (nbits w : Nat) : State := s.placeWord nbits w

end Sys2Proof.Machine
end

