-- ==== Sys2Proof/Safety.lean ====
section
/-!
DEFINITION. What a good state and a good run are, in the terms the statements use.
-/

namespace Sys2Proof.Machine

/-- The frame invariant of an emitted command frame (30_encoding.md R61, R62;
41_command_encoder.md R116): head, marker, tail, checksum, and a selector that is not zero. -/
structure EmittedFrame (l : Layout) (f : List Byte) : Prop where
  length : f.length = cmdLen l
  head : byteAt f 0 = 0xAA
  marker : byteAt f 1 = 0xB4
  tail : byteAt f (tailOff l) = 0xAB
  sum : byteAt f (chkOff l) = checksum (bytesFromTo f 2 (sumLast l))
  selector : u16le (byteAt f (selOff l)) (byteAt f (selOff l + 1)) ≠ 0

/-- The invariants of 10_state.md R28, clauses (a) to (f), with the width and content of TXBUF
(10_state.md R10; 41_command_encoder.md R116), the encoder and the decoder never both active
(60_exceptions.md R217 (c)), the bound of the RX stream (20_memory.md R41), and what the
host remembers of a wait by lines. -/
structure Inv (s : State) : Prop where
  /-- (a) `RXSTATE = HUNT` if and only if `RXCNT = 0`. -/
  huntIffEmpty : s.rxstate = .hunt ↔ s.rxcnt = 0
  /-- (b) A candidate in progress starts with the head byte. -/
  headStored : s.rxcnt ≠ 0 → s.rxbuf.b0 = 0xAA
  /-- (c) An armed decoder expects one of the two types. -/
  expectationLegal : s.armed = true → s.expType = 0xC0 ∨ s.expType = 0xC5
  /-- (d) `ARMED = 1` implies `RSPVALID = 0`. -/
  armedNotValid : s.armed = true → s.rspvalid = false
  /-- (e) A valid response is a well-formed frame. -/
  validFrame : s.rspvalid = true →
    s.rspbuf.b0 = 0xAA ∧ s.rspbuf.b9 = 0xAB ∧ s.rspbuf.b8 = checksum s.rspbuf.payload
  /-- (f) No candidate is left half collected when the decoder stops. -/
  stoppedEmpty : s.armed = false → s.rxcnt = 0
  /-- TXBUF has the width of the layout. -/
  txbufWidth : s.txbuf.length = cmdLen s.cfg.layout
  /-- A pending frame satisfies the frame invariant. -/
  pendingFrame : s.txpend = true → EmittedFrame s.cfg.layout s.txbuf
  /-- The encoder and the decoder are never both active. -/
  notBoth : ¬ (s.txpend = true ∧ s.armed = true)
  /-- The transport holds at most `RX_FIFO_DEPTH` unread bytes. -/
  fifoBound : ∀ depth, s.cfg.rxFifoDepth = some depth → s.rx.length ≤ depth
  /-- A wait by lines belongs to an idle host, and is armed or has its frame: no accepted frame misses
  `on_accept` (44_host_sequences.md R184). -/
  lineWaits : ∀ issued, s.line = .waiting issued → s.phase = .idle ∧ (s.armed = true ∨ s.rspvalid = true)

/-- The bytes of the RX stream an event accounts for (60_exceptions.md R215). -/
def eventBytes : Event → List Byte
  | .tx _ => []
  | .skip b => [b]
  | .discard w _ => w.toList
  | .accept w => w.toList

/-- The bytes the events of a trace account for, in order. -/
def traceBytes : List Event → List Byte
  | [] => []
  | e :: es => eventBytes e ++ traceBytes es

/-- The bytes DEC has taken: those of the events, then those of the unfinished candidate
(60_exceptions.md R215). -/
def takenBytes (s : State) : List Byte := traceBytes s.trace ++ s.rxbuf.toList.take s.rxcnt

/-- DEC's turns over a stream until it holds no more bytes or is no longer armed; `fuel` bounds the
turns. It is how a statement speaks of several byte steps. -/
def decRun : Nat → State → Result
  | 0, s => .next s
  | fuel + 1, s =>
    if decReady s then
      match decStep s with
      | .next t => decRun fuel t
      | .fault r => .fault r
      | .refused r => .refused r
    else .next s

/-- A run is quiescent: nothing pending, nothing awaited, no accepted response left to take, no further
operation (70_reset_and_hazards.md R259 (a)). -/
def Quiescent (s : State) : Prop :=
  s.txpend = false ∧ s.armed = false ∧ s.phase = .idle ∧ acceptedLine s = none ∧ s.program = []

/-- A run is blocked in the decoder: armed, and nothing to take
(70_reset_and_hazards.md R252 (b), (c)). -/
def WaitingForBytes (s : State) : Prop := s.armed = true ∧ s.rx = []

end Sys2Proof.Machine
end

