-- ==== Sys2Proof/Certificates/Slice0/Obligations.lean ====
section
/-!
DEFINITION. The statements for the provers.
-/

open Sys2Proof Sys2Proof.Machine

/-! ### The checksum engine -/

/-- 40_checksum.md R90, with its corner cases and its worked example. -/
def Obligations.ChecksumIsByteSumMod256 : Prop :=
  (∀ bs : List Byte, (checksum bs).toNat = (bs.map BitVec.toNat).sum % 256) ∧
  checksum [] = 0 ∧
  checksum (List.replicate 256 0x01) = 0 ∧
  checksum (List.replicate 13 0xFF) = 0xF3 ∧
  checksum (List.replicate 6 0xFF) = 0xFA ∧
  checksum [0x08, 0, 0, 0, 0, 0, 0, 0, 0, 0, 0, 0xFF, 0xFF] = 0x06

/-- 40_checksum.md R94 (a) to (d), which the spec derives from R90: the sum splits over a
concatenation, ignores order and zero bytes, and changes when exactly one byte does. -/
def Obligations.ChecksumIgnoresOrderAndDetectsOneChange : Prop :=
  (∀ x y : List Byte, checksum (x ++ y) = checksum x + checksum y) ∧
  (∀ x y : List Byte, x.Perm y → checksum x = checksum y) ∧
  (∀ x y : List Byte, checksum (x ++ 0x00 :: y) = checksum (x ++ y)) ∧
  (∀ (x y : List Byte) (b b' : Byte), b ≠ b' → checksum (x ++ b :: y) ≠ checksum (x ++ b' :: y))

/-- 40_checksum.md R92, which the spec derives from R90: an accumulator cleared and fed the bytes in
any order ends at the checksum. -/
def Obligations.AccumulatorReachesChecksumInAnyOrder : Prop :=
  ∀ x y : List Byte, x.Perm y → accumulate 0 y = checksum x

/-! ### The command encoder -/

/-- 41_command_encoder.md R116, which the spec derives from R100 and R101: every frame the encoder
builds satisfies the frame invariant, carries the command byte, and carries the padded arguments
(under `L17` up to the selector bytes). -/
def Obligations.EncoderBuildsFramesWithTheInvariant : Prop :=
  ∀ (l : Layout) (tgt : Half) (c : Byte) (args : List Byte), args.length ≤ 12 →
    EmittedFrame l (buildFrame l tgt c args) ∧
    byteAt (buildFrame l tgt c args) 2 = c ∧
    (∀ k : Nat, k < 12 → (l = .l19 ∨ k < 10) →
      byteAt (buildFrame l tgt c args) (3 + k) = args.getD k 0)

/-- The selector rule, 41_command_encoder.md R101: under `L17` the pair of argument bytes 10, 11 is left
alone unless both are zero; under `L19` the field is always the target; an unset target is "any device"; the
emitted selector is never zero; and the document's own property (b). That an unset target is "any device" is
the spec's decision D10. -/
def Obligations.SelectorIsReplacedOnlyWhenZero : Prop :=
  (∀ (tgt : Half) (c : Byte) (args : List Byte) (t : Half), args.length ≤ 12 →
    t = (if tgt = 0 then 0xFFFF else tgt) →
    (args.getD 10 0 = 0 ∧ args.getD 11 0 = 0 →
      byteAt (buildFrame .l17 tgt c args) 13 = lo8 t ∧ byteAt (buildFrame .l17 tgt c args) 14 = hi8 t) ∧
    (¬ (args.getD 10 0 = 0 ∧ args.getD 11 0 = 0) →
      byteAt (buildFrame .l17 tgt c args) 13 = args.getD 10 0 ∧
      byteAt (buildFrame .l17 tgt c args) 14 = args.getD 11 0) ∧
    byteAt (buildFrame .l19 tgt c args) 15 = lo8 t ∧ byteAt (buildFrame .l19 tgt c args) 16 = hi8 t ∧
    byteAt (buildFrame .l19 tgt c args) 13 = args.getD 10 0 ∧
    byteAt (buildFrame .l19 tgt c args) 14 = args.getD 11 0 ∧
    (∀ l : Layout, ¬ (byteAt (buildFrame l tgt c args) (selOff l) = 0 ∧
      byteAt (buildFrame l tgt c args) (selOff l + 1) = 0))) ∧
  (∀ c : Byte,
    byteAt (buildFrame .l17 0xFFFF c [0, 0, 0, 0, 0, 0, 0, 0, 0, 0, 0x00, 0x00]) 13 = 0xFF ∧
    byteAt (buildFrame .l17 0xFFFF c [0, 0, 0, 0, 0, 0, 0, 0, 0, 0, 0x00, 0x00]) 14 = 0xFF ∧
    byteAt (buildFrame .l17 0xFFFF c [0, 0, 0, 0, 0, 0, 0, 0, 0, 0, 0x12, 0x34]) 13 = 0x12 ∧
    byteAt (buildFrame .l17 0xFFFF c [0, 0, 0, 0, 0, 0, 0, 0, 0, 0, 0x12, 0x34]) 14 = 0x34)

/-- `GET_MODE`, `QUERY`, `GET_RUN`, `GET_FW`, `GET_DUTY` (41_command_encoder.md R103, R105, R107, R109,
R110): with nothing pending and nothing awaited each puts its frame, written out for both layouts, into
TXBUF, sets TXPEND and changes nothing else; otherwise each is an overlapping request. The all-zero
arguments of `QUERY` and `GET_FW` are the spec's decision D9, the target of an unset TGT is D10. -/
def Obligations.CommandsWithoutOperandBuildTheirFrame : Prop :=
  ∀ (i : Instr) (c : Byte),
    (i, c) ∈ [(Instr.getMode, (0x02 : Byte)), (.query, 0x04), (.getRun, 0x06), (.getFw, 0x07), (.getDuty, 0x08)] →
    ∀ (s : State) (t : Half), t = (if s.tgt = 0 then 0xFFFF else s.tgt) →
      (s.txpend = false → s.armed = false → s.cfg.layout = .l17 →
        exec i s = .next { s with
          txpend := true
          txbuf := [0xAA, 0xB4, c, 0, 0, 0, 0, 0, 0, 0, 0, 0, 0, lo8 t, hi8 t, c + lo8 t + hi8 t, 0xAB] }) ∧
      (s.txpend = false → s.armed = false → s.cfg.layout = .l19 →
        exec i s = .next { s with
          txpend := true
          txbuf := [0xAA, 0xB4, c, 0, 0, 0, 0, 0, 0, 0, 0, 0, 0, 0, 0, lo8 t, hi8 t, c + lo8 t + hi8 t, 0xAB] }) ∧
      (s.txpend = true ∨ s.armed = true → exec i s = .refused .overlappingRequest)

/-- `SET_MODE m`, `SET_RUN r`, `SET_DUTY d` (41_command_encoder.md R104, R108, R111): an operand in range
gives the frame, written out for both layouts; an operand above the bound is refused, while `RAW` with
the same bytes encodes any operand; otherwise an overlapping request is refused. The place and values of
the mode operand are the spec's decision D8, from general knowledge (log entry 4), the refusals of
`m > 1` and `r > 1` its decision D17, the target of an unset TGT its decision D10. -/
def Obligations.SetCommandsBuildTheirFrameInRange : Prop :=
  ∀ (f : Byte → Instr) (c : Byte) (bound : Nat),
    (f, c, bound) ∈ [(Instr.setMode, (0x02 : Byte), 1), (Instr.setRun, 0x06, 1), (Instr.setDuty, 0x08, 30)] →
    ∀ (v : Byte) (s : State) (t : Half), t = (if s.tgt = 0 then 0xFFFF else s.tgt) →
      (v.toNat ≤ bound → s.txpend = false → s.armed = false → s.cfg.layout = .l17 →
        exec (f v) s = .next { s with
          txpend := true
          txbuf := [0xAA, 0xB4, c, 0x01, v, 0, 0, 0, 0, 0, 0, 0, 0, lo8 t, hi8 t,
            c + 1 + v + lo8 t + hi8 t, 0xAB] }) ∧
      (v.toNat ≤ bound → s.txpend = false → s.armed = false → s.cfg.layout = .l19 →
        exec (f v) s = .next { s with
          txpend := true
          txbuf := [0xAA, 0xB4, c, 0x01, v, 0, 0, 0, 0, 0, 0, 0, 0, 0, 0, lo8 t, hi8 t,
            c + 1 + v + lo8 t + hi8 t, 0xAB] }) ∧
      (bound < v.toNat → exec (f v) s = .refused .operandRange) ∧
      (s.txpend = false → s.armed = false → ∃ u : State, exec (.raw c [0x01, v]) s = .next u ∧
        (v.toNat ≤ bound → exec (f v) s = .next u)) ∧
      (v.toNat ≤ bound → s.txpend = true ∨ s.armed = true → exec (f v) s = .refused .overlappingRequest)

/-- `SET_ID n` (41_command_encoder.md R106): under `L17` the new ID stands where the selector stands,
so it is left alone unless it is zero; under `L19` it is never touched and the selector follows it. The
target is R101's, that of an unset TGT the spec's decision D10. -/
def Obligations.SetIdBuildsItsFrame : Prop :=
  ∀ (n : Half) (s : State) (t : Half), t = (if s.tgt = 0 then 0xFFFF else s.tgt) →
    (s.txpend = false → s.armed = false → s.cfg.layout = .l17 → n ≠ 0 →
      exec (.setId n) s = .next { s with
        txpend := true
        txbuf := [0xAA, 0xB4, 0x05, 0, 0, 0, 0, 0, 0, 0, 0, 0, 0, lo8 n, hi8 n, 0x05 + lo8 n + hi8 n, 0xAB] }) ∧
    (s.txpend = false → s.armed = false → s.cfg.layout = .l17 → n = 0 →
      exec (.setId n) s = .next { s with
        txpend := true
        txbuf := [0xAA, 0xB4, 0x05, 0, 0, 0, 0, 0, 0, 0, 0, 0, 0, lo8 t, hi8 t, 0x05 + lo8 t + hi8 t, 0xAB] }) ∧
    (s.txpend = false → s.armed = false → s.cfg.layout = .l19 →
      exec (.setId n) s = .next { s with
        txpend := true
        txbuf := [0xAA, 0xB4, 0x05, 0, 0, 0, 0, 0, 0, 0, 0, 0, 0, lo8 n, hi8 n, lo8 t, hi8 t,
          0x05 + lo8 n + hi8 n + lo8 t + hi8 t, 0xAB] }) ∧
    (s.txpend = true ∨ s.armed = true → exec (.setId n) s = .refused .overlappingRequest)

/-- `RAW c, [a...]` and the operation `ENCODE c, [a...]` (41_command_encoder.md R100, R102): for at most
twelve arguments, any command byte and any argument values, TXBUF receives the frame of the pseudocode, byte
by byte, and TXPEND is set; more arguments, or a request in progress, are refused. That `RAW` encodes any
command byte is the spec's decision D29, the target of an unset TGT its decision D10. -/
def Obligations.RawAndEncodeBuildAnyFrame : Prop :=
  ∀ (c : Byte) (args : List Byte) (s : State) (t : Half), t = (if s.tgt = 0 then 0xFFFF else s.tgt) →
    (args.length ≤ 12 → s.txpend = false → s.armed = false →
      ∃ f : List Byte,
        exec (.raw c args) s = .next { s with txbuf := f, txpend := true } ∧
        (∀ rest : List HostOp, hostOperation (.encode c args) rest s =
          .next { s with txbuf := f, txpend := true, program := rest }) ∧
        f.length = cmdLen s.cfg.layout ∧
        byteAt f 0 = 0xAA ∧ byteAt f 1 = 0xB4 ∧ byteAt f 2 = c ∧
        (∀ k : Nat, k < 10 → byteAt f (3 + k) = args.getD k 0) ∧
        (s.cfg.layout = .l19 →
          byteAt f 13 = args.getD 10 0 ∧ byteAt f 14 = args.getD 11 0 ∧
          byteAt f 15 = lo8 t ∧ byteAt f 16 = hi8 t) ∧
        (s.cfg.layout = .l17 → args.getD 10 0 = 0 ∧ args.getD 11 0 = 0 →
          byteAt f 13 = lo8 t ∧ byteAt f 14 = hi8 t) ∧
        (s.cfg.layout = .l17 → ¬ (args.getD 10 0 = 0 ∧ args.getD 11 0 = 0) →
          byteAt f 13 = args.getD 10 0 ∧ byteAt f 14 = args.getD 11 0) ∧
        byteAt f (chkOff s.cfg.layout) = checksum (bytesFromTo f 2 (sumLast s.cfg.layout)) ∧
        byteAt f (tailOff s.cfg.layout) = 0xAB) ∧
    (12 < args.length → exec (.raw c args) s = .refused .tooManyArgs ∧
      ∀ rest : List HostOp, hostOperation (.encode c args) rest s = .refused .tooManyArgs) ∧
    (args.length ≤ 12 → s.txpend = true ∨ s.armed = true →
      exec (.raw c args) s = .refused .overlappingRequest ∧
      ∀ rest : List HostOp, hostOperation (.encode c args) rest s = .refused .overlappingRequest)

/-- 70_reset_and_hazards.md R249 (a), which the spec derives: under `L17` the request "set ID to 0" is
bit-identical to "set ID to the target", under `L19` it is not. -/
def Obligations.SetIdZeroIsSetIdTargetUnderL17 : Prop :=
  ∀ s : State, s.txpend = false → s.armed = false → s.tgt ≠ 0 →
    (s.cfg.layout = .l17 → exec (.setId 0) s = exec (.setId s.tgt) s) ∧
    (s.cfg.layout = .l19 → exec (.setId 0) s ≠ exec (.setId s.tgt) s)

/-- The reverse operation of 41_command_encoder.md R115, which the spec derives: it never fails on an
encoder's frame, returns the command byte, and returns the padded arguments, except that under `L17`
two zero argument bytes 10, 11 come back as the target. -/
def Obligations.DecodeCommandRecoversCommandAndArguments : Prop :=
  ∀ (l : Layout) (tgt : Half) (c : Byte) (args : List Byte), args.length ≤ 12 →
    ∃ fields : CommandFields,
      commandFields l (buildFrame l tgt c args) = .ok fields ∧ fields.cmd = c ∧
      (l = .l19 ∨ ¬ (args.getD 10 0 = 0 ∧ args.getD 11 0 = 0) →
        fields.args = args ++ List.replicate (12 - args.length) 0) ∧
      (l = .l17 ∧ args.getD 10 0 = 0 ∧ args.getD 11 0 = 0 →
        fields.args = (args ++ List.replicate (12 - args.length) 0).take 10 ++
          [lo8 (if tgt = 0 then 0xFFFF else tgt), hi8 (if tgt = 0 then 0xFFFF else tgt)])

/-! ### Transmit and the operations of the host -/

/-- `TXWRITE` (41_command_encoder.md R112, with the bytes of 20_memory.md R43): `ok` sends the whole frame
once and ends the pending; an error changes no register and leaves some first bytes of the frame on the wire
(the spec's decision D13), how many being part of the transport's answer (log entry 13); a write with
nothing pending is refused. The host's program line `TXWRITE` is this operation with the next answer, and
blocks while there is none. After an `ok` the host knows the command byte written (44_host_sequences.md
R184); a sleep frame ends its request at once (R189; log entry 26). The host moves first when nothing is
scheduled (log entry 5). -/
def Obligations.TxWriteSendsTheFrameOrKeepsItPending : Prop :=
  ∀ s : State,
    (s.txpend = true →
      txWriteOp .ok s = .next { s with
        txpend := false, txHistory := s.txHistory ++ s.txbuf, trace := s.trace ++ [.tx s.txbuf] }) ∧
    (s.txpend = true → ∀ sent : Nat, ∃ fragment : List Byte, fragment <+: s.txbuf ∧
      txWriteOp (.error sent) s = .next { s with txHistory := s.txHistory ++ fragment }) ∧
    (s.txpend = true → ∀ fragment : List Byte, fragment <+: s.txbuf →
      ∃ sent : Nat, txWriteOp (.error sent) s = .next { s with txHistory := s.txHistory ++ fragment }) ∧
    (s.txpend = false → ∀ a : WriteAnswer, txWriteOp a s = .refused .nothingToSend) ∧
    (∀ rest : List HostOp, s.schedule = [] → s.phase = .idle → acceptedLine s = none →
      s.program = .txWrite :: rest →
      (s.txpend = false → step s = .refused .nothingToSend) ∧
      (s.txpend = true → s.answers = [] → hostStep s = .next s) ∧
      (s.txpend = true → ∀ (sent : Nat) (as : List WriteAnswer), s.answers = .short sent :: as →
        step s = .refused .shortWrite) ∧
      (s.txpend = true → ∀ (sent : Nat) (as : List WriteAnswer), s.answers = .error sent :: as →
        step s = .next { s with
          program := rest, answers := as, txHistory := s.txHistory ++ s.txbuf.take sent }) ∧
      (s.txpend = true → ∀ as : List WriteAnswer, s.answers = .ok :: as →
        (issuedInstruction s.cfg.layout s.txbuf ≠ .ok (.setRun 0) → step s = .next { s with
          program := rest, answers := as, txpend := false, txHistory := s.txHistory ++ s.txbuf
          trace := s.trace ++ [.tx s.txbuf], line := .written (byteAt s.txbuf 2) }) ∧
        (issuedInstruction s.cfg.layout s.txbuf = .ok (.setRun 0) → step s = .next { s with
          program := rest, answers := as, txpend := false, txHistory := s.txHistory ++ s.txbuf
          trace := s.trace ++ [.tx s.txbuf], cache := { s.cache with run := some 0 }
          returned := s.returned ++ [.value 0], line := .idle })))

/-- The write retry of 41_command_encoder.md R113, as a run: any number of failed writes and then a
successful one send the identical frame, each failure leaving a first part of it on the wire. The
answers are the model's input list (log entry 13), and with an empty schedule the host moves first (log
entry 5), so nothing else moves in these steps. A short write is refused: 20_memory.md R45, the
spec's decision D13. -/
def Obligations.WriteRetryResendsTheIdenticalFrame : Prop :=
  (∀ (s : State) (sent : Nat), s.txpend = true → txWriteOp (.short sent) s = .refused .shortWrite) ∧
  ∀ (sents : List Nat) (s : State) (r : Request) (rest : List WriteAnswer),
    s.schedule = [] → s.phase = .writing r → s.txpend = true →
    s.answers = sents.map WriteAnswer.error ++ WriteAnswer.ok :: rest →
    Sys2Proof.core.run (sents.length + 1) s = .next { s with
      txpend := false
      txHistory := s.txHistory ++ (sents.map fun n => s.txbuf.take n).flatten ++ s.txbuf
      trace := s.trace ++ [.tx s.txbuf]
      answers := rest
      phase := .arming r }

/-- `SETTGT t` (41_command_encoder.md R114): it writes TGT and nothing else, pending or armed or not,
and the next `ENCODE` uses it (the rule's worked example, under `L17`). The host moves first when nothing
is scheduled (log entry 5). -/
def Obligations.SetTgtTakesEffectAtTheNextEncode : Prop :=
  (∀ (s : State) (t : Half) (rest : List HostOp), s.schedule = [] → s.phase = .idle →
    acceptedLine s = none →
    s.program = .setTgt t :: rest → step s = .next { s with tgt := t, program := rest }) ∧
  (∀ s : State, s.txpend = false → s.armed = false → s.cfg.layout = .l17 → s.tgt = 0x1234 →
    exec .getDuty s = .next { s with
      txpend := true
      txbuf := [0xAA, 0xB4, 0x08, 0, 0, 0, 0, 0, 0, 0, 0, 0, 0, 0x34, 0x12, 0x4E, 0xAB] })

/-- `ARM ty, c` (42_resynchronizer.md R130): it latches the expectation, clears RSPVALID, sets ARMED and
changes nothing else; a request in progress is refused, and so is any other type (the spec's decision D14).
The host's program line `ARM` is this operation, and the host remembers the command byte written before it,
if any, for `on_accept` (44_host_sequences.md R184); the host moves first when nothing is scheduled (log
entry 5). -/
def Obligations.ArmLatchesTheExpectation : Prop :=
  ∀ (ty c : Byte) (s : State),
    (ty = 0xC0 ∨ ty = 0xC5 → s.armed = false → s.txpend = false →
      armOp ty c s = .next { s with expType := ty, expCmd := c, rspvalid := false, armed := true }) ∧
    (ty ≠ 0xC0 → ty ≠ 0xC5 → armOp ty c s = .refused .badExpectation) ∧
    (ty = 0xC0 ∨ ty = 0xC5 → s.armed = true ∨ s.txpend = true →
      armOp ty c s = .refused .overlappingRequest) ∧
    (∀ rest : List HostOp, s.schedule = [] → s.phase = .idle → acceptedLine s = none →
      s.program = .arm ty c :: rest →
      (∀ e : Refusal, armOp ty c s = .refused e → step s = .refused e) ∧
      (ty = 0xC0 ∨ ty = 0xC5 → s.armed = false → s.txpend = false → ∀ issued : Option Byte,
        (∀ w, s.line = .written w → issued = some w) → ((∀ w, s.line ≠ .written w) → issued = none) →
        step s = .next { s with
          program := rest, expType := ty, expCmd := c, rspvalid := false, armed := true
          line := .waiting issued }))

/-- `AWAIT` (42_resynchronizer.md R139): while `ARMED = 1` the host's program stands still, whatever is
scheduled for it; with `ARMED = 0` and no accepted response to take it goes on to the next operation, and
nothing else changes. That `AWAIT` is a line of the program is the model's choice (log entry 25), and so is
the order of the agents with nothing scheduled (log entry 5). -/
def Obligations.AwaitHoldsTheProgramWhileArmed : Prop :=
  ∀ (s : State) (rest : List HostOp), s.phase = .idle → s.program = .await :: rest →
    (s.armed = true → hostStep s = .next s) ∧
    (s.armed = false → acceptedLine s = none → hostStep s = .next { s with program := rest }) ∧
    (s.schedule = [] → s.armed = true → ∀ (b : Byte) (bs : List Byte), s.rx = b :: bs →
      step s = rxByteOp b { s with rx := bs })

/-! ### The resynchronizer -/

/-- `RXBYTE` in `HUNT` (42_resynchronizer.md R131, R132): a byte other than the head is dropped, with an
event; the head byte is stored and collecting begins. -/
def Obligations.HuntSkipsToTheHeadByte : Prop :=
  ∀ (b : Byte) (s : State), s.rxstate = .hunt →
    (b ≠ 0xAA → rxByteOp b s = .next { s with trace := s.trace ++ [.skip b] }) ∧
    (b = 0xAA → rxByteOp b s = .next { s with
      rxbuf := { s.rxbuf with b0 := 0xAA }, rxcnt := 1, rxstate := .collect })

/-- `RXBYTE` in `COLLECT` (42_resynchronizer.md R133, R134): any byte is stored at the position counter;
the tenth completes the candidate, whatever the ten bytes are, and the same transition validates it. -/
def Obligations.CollectStoresAnyByteAndTheTenthCompletes : Prop :=
  ∀ (b : Byte) (s : State), s.rxstate = .collect →
    (∀ n : Fin 10, s.rxcnt.val < 9 → n.val = s.rxcnt.val + 1 →
      rxByteOp b s = .next { s with rxbuf := s.rxbuf.set s.rxcnt b, rxcnt := n }) ∧
    (s.rxcnt = 9 → s.armed = true →
      rxByteOp b s = .next (completeWindow { s.rxbuf with b9 := b }
        { s with rxbuf := { s.rxbuf with b9 := b }, rxcnt := 0, rxstate := .hunt }))

/-- Ten bytes of a frame after skipped bytes that hold no head byte (42_resynchronizer.md R138): the byte
steps from `HUNT` and the frame-level function `decode_response` cut the same candidate, skip the same
bytes and leave the same rest. -/
def Obligations.ByteStepsCutTheFrameThatScanCuts : Prop :=
  ∀ (s : State) (skipped rest : List Byte) (w : Window),
    s.armed = true → s.rxstate = .hunt → s.rxcnt = 0 →
    (∀ b ∈ skipped, b ≠ 0xAA) → w.b0 = 0xAA → s.rx = skipped ++ w.toList ++ rest →
    scanResponse s.rx = .frame w rest ∧
    decRun (skipped.length + 10) s =
      receiveWindow w { s with rx := rest, trace := s.trace ++ skipped.map Event.skip }

/-- The other case of 42_resynchronizer.md R138: where `decode_response` answers "resynchronizing", the
byte steps take the whole stream and the decoder stays armed with nothing accepted, validated or
recorded (the blocked states of 70_reset_and_hazards.md R252 (b), (c)). -/
def Obligations.ScanWithoutFrameLeavesTheDecoderWaiting : Prop :=
  ∀ s : State, s.armed = true → s.rxstate = .hunt → s.rxcnt = 0 → scanResponse s.rx = .resynchronizing →
    ∃ t : State, decRun s.rx.length s = .next t ∧ WaitingForBytes t ∧
      t.verdict = s.verdict ∧ t.reason = s.reason ∧ t.rspbuf = s.rspbuf ∧ t.rspvalid = s.rspvalid ∧
      takenBytes t = takenBytes s ++ s.rx ∧ t.rxcnt.val ≤ s.rx.length ∧
      (t.rxcnt = 0 ↔ ∀ b ∈ s.rx, b ≠ 0xAA)

/-- The resynchronization property of 42_resynchronizer.md R140, which the spec derives from R138: two
frames among garbage free of the head byte are found in order, with nothing left. -/
def Obligations.TwoFramesAmongGarbageAreFoundInOrder : Prop :=
  ∀ (g1 g2 : List Byte) (v1 v2 : Window),
    (∀ b ∈ g1, b ≠ 0xAA) → (∀ b ∈ g2, b ≠ 0xAA) → v1.b0 = 0xAA → v2.b0 = 0xAA →
    scanResponse (g1 ++ v1.toList ++ g2 ++ v2.toList) = .frame v1 (g2 ++ v2.toList) ∧
    scanResponse (g2 ++ v2.toList) = .frame v2 []

/-- A doubled head byte (42_resynchronizer.md R142, which the spec derives): the stray head swallows the
intact frame directly behind it, and only that frame's last byte is left. -/
def Obligations.DoubledHeadSwallowsTheNextFrame : Prop :=
  ∀ (w : Window) (rest : List Byte), w.b0 = 0xAA →
    scanResponse (0xAA :: (w.toList ++ rest)) =
      .frame ⟨0xAA, w.b0, w.b1, w.b2, w.b3, w.b4, w.b5, w.b6, w.b7, w.b8⟩ (w.b9 :: rest)

/-- 42_resynchronizer.md R137: while `ARMED = 0` the decoder has no step, however it is scheduled, and the
bytes stay in the transport. That a response instruction then has no effect either is the model's reading
(log entry 8). -/
def Obligations.UnarmedDecoderTakesNothing : Prop :=
  ∀ s : State, s.armed = false →
    decReady s = false ∧ decStep s = .next s ∧
    (∀ (i : Instr) (w : Window), responseWindow i = some w → exec i s = .next s)

/-- A transport read that delivers no byte (20_memory.md R44, the spec's decision D12): the turn passes, and
every register, both streams and the host are unchanged. That it is a turn of the schedule is the model's
choice (log entry 14). -/
def Obligations.FailedReadChangesNothing : Prop :=
  ∀ (s : State) (rest : List Turn), s.schedule = .readFails :: rest →
    step s = .next { s with schedule := rest }

/-! ### The response decoder -/

/-- Whatever the ten bytes are, decoding them and running the decoded instruction is `complete(C)`: the
five clauses decide, not the decoder (42_resynchronizer.md R133; 43_response_decoder.md R150). That the
checksum byte is a field of the decoded instruction is the model's reading (log entry 9). -/
def Obligations.RunningTheDecodedWindowIsCompletingIt : Prop :=
  ∀ (w : Window) (s : State), s.armed = true →
    finishWindow w s = .next (completeWindow w { s with rxbuf := w, rxcnt := 0, rxstate := .hunt })

/-- `verdict`, `reason` and `complete(C)` (43_response_decoder.md R150, with R152 and R153): the five
bits, each on its own, whether or not another clause failed; the reason names the first failing one; a
candidate for which all hold is accepted, any other is discarded, and nothing else changes; the tenth
byte's transition is `complete` with the decoder back in `HUNT`. The order and the codes of the reasons
are the spec's decision D11, that the command clause holds for every measurement expectation its D15. -/
def Obligations.VerdictEvaluatesAllFiveClauses : Prop :=
  ∀ (cfg : Config) (w : Window) (ty c : Byte),
    ((verdictOf cfg w ty c).getLsbD 4 = true ↔ w.b0 = 0xAA) ∧
    ((verdictOf cfg w ty c).getLsbD 3 = true ↔ w.b9 = 0xAB) ∧
    ((verdictOf cfg w ty c).getLsbD 2 = true ↔ checksum [w.b2, w.b3, w.b4, w.b5, w.b6, w.b7] = w.b8) ∧
    ((verdictOf cfg w ty c).getLsbD 1 = true ↔ w.b1 = ty) ∧
    ((verdictOf cfg w ty c).getLsbD 0 = true ↔ (ty = 0xC5 → w.get (2 + cfg.ackOffCmd) = c)) ∧
    reasonOf (verdictOf cfg w ty c) = (if w.b0 ≠ 0xAA then 1 else if w.b9 ≠ 0xAB then 2
      else if checksum [w.b2, w.b3, w.b4, w.b5, w.b6, w.b7] ≠ w.b8 then 3
      else if w.b1 ≠ ty then 4
      else if ty = 0xC5 ∧ w.get (2 + cfg.ackOffCmd) ≠ c then 5 else 0) ∧
    (∀ s : State, s.cfg = cfg → s.expType = ty → s.expCmd = c →
      completeWindow w s =
        if verdictOf cfg w ty c = 0b11111 then
          { s with
            verdict := 0b11111, reason := 0
            rspbuf := w, rspvalid := true, armed := false, trace := s.trace ++ [.accept w] }
        else
          { s with
            verdict := verdictOf cfg w ty c, reason := reasonOf (verdictOf cfg w ty c)
            trace := s.trace ++ [.discard w (reasonOf (verdictOf cfg w ty c))] }) ∧
    (∀ s : State, s.armed = true →
      finishWindow w s = .next (completeWindow w { s with rxbuf := w, rxcnt := 0, rxstate := .hunt }))

/-- A candidate that fails a clause is discarded (43_response_decoder.md R153; 60_exceptions.md R212,
R213): VERDICT and REASON are recorded, the decoder hunts again, an event is emitted, nothing else
changes, and ARMED stays 1; the reason is the first failing clause. The codes and their order are the
spec's decision D11, the command clause for acks alone its D15. -/
def Obligations.FailingCandidateIsDiscardedWithItsReason : Prop :=
  ∀ (w : Window) (s : State) (r : BitVec 3), s.armed = true →
    r = (if w.b0 ≠ 0xAA then 1 else if w.b9 ≠ 0xAB then 2
      else if checksum [w.b2, w.b3, w.b4, w.b5, w.b6, w.b7] ≠ w.b8 then 3
      else if w.b1 ≠ s.expType then 4
      else if s.expType = 0xC5 ∧ w.get (2 + s.cfg.ackOffCmd) ≠ s.expCmd then 5 else 0) →
    r ≠ 0 →
    finishWindow w s = .next { s with
      rxbuf := w, rxcnt := 0, rxstate := .hunt
      verdict := verdictOf s.cfg w s.expType s.expCmd, reason := r
      trace := s.trace ++ [.discard w r] }

/-- `MEAS` (43_response_decoder.md R155): an awaited measurement frame with a good checksum is accepted,
and RSPBUF then delivers exactly the three fields it carried; the document's own example. The instruction is
the transition that takes the frame's tenth byte (log entry 8), here and in the next three. -/
def Obligations.AwaitedMeasurementIsAcceptedAndDelivered : Prop :=
  (∀ (pm25 pm10 id : Half) (chk : Byte) (s : State) (w : Window),
    w = ⟨0xAA, 0xC0, lo8 pm25, hi8 pm25, lo8 pm10, hi8 pm10, lo8 id, hi8 id, chk, 0xAB⟩ →
    s.armed = true → s.expType = 0xC0 →
    chk = lo8 pm25 + hi8 pm25 + lo8 pm10 + hi8 pm10 + lo8 id + hi8 id →
    exec (.meas pm25 pm10 id chk) s = .next { s with
      rxbuf := w, rxcnt := 0, rxstate := .hunt, verdict := 0b11111, reason := 0
      rspbuf := w, rspvalid := true, armed := false, trace := s.trace ++ [.accept w] } ∧
    measPm25 w = pm25 ∧ measPm10 w = pm10 ∧ rspId w = id) ∧
  decodeResponse ⟨0xAA, 0xC0, 0x19, 0x00, 0x64, 0x00, 0x34, 0x12, 0xC3, 0xAB⟩ =
    .ok (.meas 25 100 0x1234 0xC3)

/-- `ACK_MODE`, `ACK_RUN`, `ACK_DUTY` (43_response_decoder.md R157, R158, R160, R162, R165): an awaited
ack with a good checksum is accepted, whatever value it carries (log entry 8), and at the spec's default
positions (log entry 4) RSPBUF delivers the raw sub-opcode, the raw value and the ID. -/
def Obligations.AwaitedValueAckIsAcceptedAndDelivered : Prop :=
  ∀ (f : Byte → Byte → Byte → Half → Byte → Instr) (cmd : Byte),
    (f, cmd) ∈ [(Instr.ackMode, (0x02 : Byte)), (Instr.ackRun, 0x06), (Instr.ackDuty, 0x08)] →
    ∀ (sub val p3 : Byte) (id : Half) (chk : Byte) (s : State) (w : Window),
      w = ⟨0xAA, 0xC5, cmd, sub, val, p3, lo8 id, hi8 id, chk, 0xAB⟩ →
      s.armed = true → s.expType = 0xC5 → w.get (2 + s.cfg.ackOffCmd) = s.expCmd →
      chk = cmd + sub + val + p3 + lo8 id + hi8 id →
      exec (f sub val p3 id chk) s = .next { s with
        rxbuf := w, rxcnt := 0, rxstate := .hunt, verdict := 0b11111, reason := 0
        rspbuf := w, rspvalid := true, armed := false, trace := s.trace ++ [.accept w] } ∧
      ackCmd Config.standard w = cmd ∧ ackSub Config.standard w = sub ∧
      ackVal Config.standard w = val ∧ rspId w = id

/-- `ACK_FW` (43_response_decoder.md R161): accepted when awaited, and delivers the three firmware bytes,
not range-checked, and the ID, at the default positions (log entries 4, 8); the rule's worked example. -/
def Obligations.AwaitedFirmwareAckIsAcceptedAndDelivered : Prop :=
  (∀ (year month day : Byte) (id : Half) (chk : Byte) (s : State) (w : Window),
    w = ⟨0xAA, 0xC5, 0x07, year, month, day, lo8 id, hi8 id, chk, 0xAB⟩ →
    s.armed = true → s.expType = 0xC5 → w.get (2 + s.cfg.ackOffCmd) = s.expCmd →
    chk = 0x07 + year + month + day + lo8 id + hi8 id →
    exec (.ackFw year month day id chk) s = .next { s with
      rxbuf := w, rxcnt := 0, rxstate := .hunt, verdict := 0b11111, reason := 0
      rspbuf := w, rspvalid := true, armed := false, trace := s.trace ++ [.accept w] } ∧
    fwYear Config.standard w = year ∧ fwMonth Config.standard w = month ∧
    fwDay Config.standard w = day ∧ rspId w = id) ∧
  fwString 18 11 16 = ['2', '0', '1', '8', '.', '1', '1', '.', '1', '6']

/-- `ACK_ID` and `ACK_OTHER` (43_response_decoder.md R159, R164): an ack with any echo is accepted when
that echo is awaited, its payload and ID delivered raw; with another echo awaited it is discarded with
reason 5, and with a measurement awaited with reason 4 (log entry 8). -/
def Obligations.AwaitedIdOrUnnamedAckIsAccepted : Prop :=
  ∀ (i : Instr) (cmd p1 p2 p3 : Byte) (id : Half) (chk : Byte) (s : State) (w : Window),
    (i = .ackOther cmd p1 p2 p3 id chk ∨ (cmd = 0x05 ∧ i = .ackId p1 p2 p3 id chk)) →
    w = ⟨0xAA, 0xC5, cmd, p1, p2, p3, lo8 id, hi8 id, chk, 0xAB⟩ →
    s.armed = true → chk = cmd + p1 + p2 + p3 + lo8 id + hi8 id →
    (s.expType = 0xC5 → w.get (2 + s.cfg.ackOffCmd) = s.expCmd →
      exec i s = .next { s with
        rxbuf := w, rxcnt := 0, rxstate := .hunt, verdict := 0b11111, reason := 0
        rspbuf := w, rspvalid := true, armed := false, trace := s.trace ++ [.accept w] } ∧
      w.payload = [cmd, p1, p2, p3, lo8 id, hi8 id] ∧ rspId w = id) ∧
    (s.expType = 0xC5 → w.get (2 + s.cfg.ackOffCmd) ≠ s.expCmd →
      exec i s = .next { s with
        rxbuf := w, rxcnt := 0, rxstate := .hunt, verdict := 0b11110, reason := 5
        trace := s.trace ++ [.discard w 5] }) ∧
    (s.expType = 0xC0 →
      exec i s = .next { s with
        rxbuf := w, rxcnt := 0, rxstate := .hunt, verdict := 0b11101, reason := 4
        trace := s.trace ++ [.discard w 4] })

/-- The firmware string (43_response_decoder.md R163): "20" and the three bytes in decimal, padded to two
digits, with dots between; ten characters exactly when all three bytes are at most 99, longer
otherwise; and the rule's worked examples. That two digits are a minimum is the spec's decision D24, the
list of characters the model's choice (log entry 23). -/
def Obligations.FirmwareStringWidthIsAMinimum : Prop :=
  (∀ y m d : Byte, fwString y m d = ['2', '0'] ++ dec2 y ++ ['.'] ++ dec2 m ++ ['.'] ++ dec2 d) ∧
  (∀ v : Byte, dec2 v = (if v.toNat < 10 then ['0'] else []) ++ Nat.toDigits 10 v.toNat) ∧
  (∀ y m d : Byte, (fwString y m d).length = 10 ↔ y.toNat ≤ 99 ∧ m.toNat ≤ 99 ∧ d.toNat ≤ 99) ∧
  (∀ y m d : Byte, 10 ≤ (fwString y m d).length) ∧
  fwString 18 11 16 = ['2', '0', '1', '8', '.', '1', '1', '.', '1', '6'] ∧
  fwString 7 3 5 = ['2', '0', '0', '7', '.', '0', '3', '.', '0', '5'] ∧
  fwString 0 0 0 = ['2', '0', '0', '0', '.', '0', '0', '.', '0', '0'] ∧
  fwString 255 255 255 = ['2', '0', '2', '5', '5', '.', '2', '5', '5', '.', '2', '5', '5']

/-- The names of mode and run-state bytes and the exact tenths (43_response_decoder.md R156, R158, R160,
R165): only 0 and 1 have names at the default mode values (log entry 4), and a raw concentration is its
whole units and one decimal digit. -/
def Obligations.NamesAndTenthsOfDeliveredValues : Prop :=
  modeName Config.standard 0 = some .active ∧ modeName Config.standard 1 = some .query ∧
  runName 0 = some .sleep ∧ runName 1 = some .wake ∧
  (∀ b : Byte, 1 < b.toNat → modeName Config.standard b = none ∧ runName b = none) ∧
  (∀ raw : Half, raw.toNat = 10 * (tenths raw).1 + (tenths raw).2 ∧ (tenths raw).2 < 10)

/-! ### Encoding -/

/-- The words of one instruction of each family, written out from the spec's encodings, decode to it, and a
command frame with a wrong checksum is refused by name (30_encoding.md section 3). The place of `SET_MODE`'s
operand is the spec's decision D8, from general knowledge (log entry 4). That 31 decodes as `SET_DUTY` is
the five-bit field of the opcode table, whose rows R82 has a decoder try (the range 0 to 30 is refused when
it runs); that the checksum is checked is R82 and 41_command_encoder.md R115. -/
def Obligations.WrittenFramesDecodeToTheirInstruction : Prop :=
  decode .l17 [0xAA, 0xB4, 0x02, 0x01, 0x01, 0, 0, 0, 0, 0, 0, 0, 0, 0xFF, 0xFF, 0x02, 0xAB] =
    .ok (.setMode 1) ∧
  decode .l19 [0xAA, 0xB4, 0x05, 0, 0, 0, 0, 0, 0, 0, 0, 0, 0, 0x34, 0x12, 0xFF, 0xFF, 0x49, 0xAB] =
    .ok (.setId 0x1234) ∧
  decode .l17 [0xAA, 0xB4, 0x08, 0x01, 0x1F, 0, 0, 0, 0, 0, 0, 0, 0, 0xFF, 0xFF, 0x26, 0xAB] =
    .ok (.setDuty 31) ∧
  decode .l17 [0xAA, 0xC5, 0x06, 0x01, 0x00, 0x00, 0x34, 0x12, 0x4D, 0xAB] =
    .ok (.ackRun 1 0 0 0x1234 0x4D) ∧
  decode .l17 [0xAA, 0xC5, 0x09, 0x01, 0x02, 0x03, 0x34, 0x12, 0x55, 0xAB] =
    .ok (.ackOther 9 1 2 3 0x1234 0x55) ∧
  decode .l17 [0xAA, 0xB4, 0x02, 0x00, 0x00, 0, 0, 0, 0, 0, 0, 0, 0, 0xFF, 0xFF, 0x01, 0xAB] =
    .error .badChecksum

/-- Decode of encode is the instruction, for the nine named commands in both layouts, every operand at
every value its row encodes and every target; the selector comes back too. Under `L17` the one
exception is `SET_ID 0`, which has no frame of its own (41_command_encoder.md R106). -/
def Obligations.DecodeAfterEncodeNamedCommands : Prop :=
  ∀ (l : Layout) (tgt : Half) (i : Instr), i.wf = true → responseWindow i = none →
    (∀ c args, i ≠ .raw c args) → ¬ (l = .l17 ∧ i = .setId 0) →
    ∃ sel : Half, decodeCommand l (encode l tgt i) = .ok (i, sel) ∧
      (l = .l17 → ∀ n, i = .setId n → sel = n) ∧
      (l = .l19 ∨ (∀ n, i ≠ .setId n) → sel = (if tgt = 0 then 0xFFFF else tgt))

/-- Decode of encode is the instruction for the seven response rows, every field at every value, the
checksum byte among them (30_encoding.md section 3). That decoding succeeds whatever the checksum byte is,
the clause `V_SUM` checking it when the instruction runs, is the model's reading (log entry 9). -/
def Obligations.DecodeAfterEncodeResponses : Prop :=
  ∀ (l : Layout) (tgt : Half) (i : Instr), i.wf = true → (∃ w, responseWindow i = some w) →
    decode l (encode l tgt i) = .ok i

/-- Encode of decode is the frame, for every command frame the decoder takes whose selector is not zero
(an emitted one never is, 41_command_encoder.md R101 (a)), `RAW` frames included. -/
def Obligations.EncodeAfterDecodeCommandFrames : Prop :=
  ∀ (l : Layout) (f : List Byte) (i : Instr) (sel : Half),
    decodeCommand l f = .ok (i, sel) → sel ≠ 0 → encode l sel i = f ∧ i.wf = true

/-- Encode of decode is the window, for every window the decoder takes (30_encoding.md section 3). The
decoder takes a window whatever its checksum byte is (log entry 9). -/
def Obligations.EncodeAfterDecodeResponseWindows : Prop :=
  ∀ (l : Layout) (tgt : Half) (w : Window) (i : Instr), decodeResponse w = .ok i →
    encode l tgt i = w.toList ∧ responseWindow i = some w ∧ i.wf = true

/-- The row the decoder picks is the response form that the type and the echoed command byte name, at
the spec's default ack positions (30_encoding.md R74; log entries 4, 24). -/
def Obligations.DecodedRowIsTheResponseForm : Prop :=
  ∀ (w : Window) (i : Instr), decodeResponse w = .ok i →
    readResponse w (responseForm Config.standard w) = i

/-! ### The step and the agents -/

/-- A step runs the command instruction the HOST's next operation encodes: when the frame decodes to `i`,
the step is `exec i` on the state whose program has moved past that operation. The program's line is read
by its row alone (log entry 7); for a whole frame that is what `decode_command` reads too. An accepted
response of a request by lines is taken first (44_host_sequences.md R184); with nothing scheduled the host
moves first (log entry 5). -/
def Obligations.StepRunsTheIssuedCommand : Prop :=
  ∀ (s : State) (f : List Byte) (rest : List HostOp) (i : Instr),
    s.phase = .idle → acceptedLine s = none → s.program = .issue f :: rest →
    issuedInstruction s.cfg.layout f = .ok i ∨ (∃ sel, decodeCommand s.cfg.layout f = .ok (i, sel)) →
    (s.schedule = [] → step s = exec i { s with program := rest }) ∧
    (∀ ts, s.schedule = .host :: ts → step s = exec i { s with program := rest, schedule := ts })

/-- A step runs the response instruction the received window encodes (log entry 8): when nine bytes are
collected and the tenth comes in, the step is `exec i` on the state whose stream has moved past that byte.
With nothing scheduled the decoder moves before the transport once the host has no step (log entry 5). -/
def Obligations.StepRunsTheReceivedResponse : Prop :=
  ∀ (s : State) (b : Byte) (rest : List Byte) (i : Instr),
    s.armed = true → s.rxstate = .collect → s.rxcnt = 9 → s.rx = b :: rest →
    decodeResponse { s.rxbuf with b9 := b } = .ok i →
    (s.schedule = [] → hostReady s = false → step s = exec i { s with rx := rest }) ∧
    (∀ ts, s.schedule = .dec :: ts → step s = exec i { s with rx := rest, schedule := ts })

/-- The invariants of 10_state.md R28 hold after reset, under every configuration. -/
def Obligations.InvariantHoldsAtReset : Prop :=
  Inv State.reset ∧ ∀ cfg : Config, Inv (State.initial cfg)

/-- The invariants of 10_state.md R28, which the spec derives, with the width of TXBUF, the frame
invariant of a pending frame, the encoder and decoder never both active, the bound of the RX
stream, and a wait by lines that is armed or has its frame: every step of every agent keeps them. -/
def Obligations.InvariantIsKeptByEveryStep : Prop :=
  ∀ s t : State, Inv s → step s = .next t → Inv t

/-- No byte is lost, repeated or reordered (42_resynchronizer.md R136, 60_exceptions.md R215): over every
step but a reset, with an unbounded transport, the bytes taken so far, the unread ones and those still
to arrive make up the same sequence. -/
def Obligations.EveryReceivedByteIsAccountedForOnce : Prop :=
  ∀ s t : State, Inv s → step s = .next t → s.cfg.rxFifoDepth = none →
    s.schedule.head? ≠ some .reset →
    takenBytes t ++ t.rx ++ t.feed = takenBytes s ++ s.rx ++ s.feed

/-- 43_response_decoder.md R151, which the spec derives: the head clause cannot fail in the block, so no
step records reason 1, nor the values 6 and 7 (60_exceptions.md R213). -/
def Obligations.ReasonIsNeverBadHead : Prop :=
  ∀ s t : State, Inv s → step s = .next t →
    s.reason ≠ 1 ∧ s.reason ≠ 6 ∧ s.reason ≠ 7 → t.reason ≠ 1 ∧ t.reason ≠ 6 ∧ t.reason ≠ 7

/-- The configuration is written by no operation (10_state.md R24), and TGT only by `SETTGT` and by reset
(10_state.md R20): no host sequence, no command and no response changes it. -/
def Obligations.OnlySetTgtAndResetWriteTgt : Prop :=
  ∀ s t : State, step s = .next t →
    t.cfg = s.cfg ∧
    (t.tgt = s.tgt ∨ (∃ v rest, s.phase = .idle ∧ s.program = .setTgt v :: rest ∧ t.tgt = v) ∨
      (s.schedule.head? = some .reset ∧ t.tgt = s.cfg.tgtReset))

/-- RSPVALID rises and ARMED falls together and only by accepting a well-formed frame of the expected
type (10_state.md R18, R21; 43_response_decoder.md R152), a reset apart. -/
def Obligations.OnlyAcceptanceOrResetEndsAWait : Prop :=
  ∀ s t : State, step s = .next t → s.armed = true → t.armed = false →
    s.schedule.head? = some .reset ∨
    (t.rspvalid = true ∧ t.rspbuf.b0 = 0xAA ∧ t.rspbuf.b9 = 0xAB ∧ t.rspbuf.b1 = s.expType ∧
      t.rspbuf.b8 = checksum [t.rspbuf.b2, t.rspbuf.b3, t.rspbuf.b4, t.rspbuf.b5, t.rspbuf.b6, t.rspbuf.b7] ∧
      (s.expType = 0xC5 → t.rspbuf.get (2 + s.cfg.ackOffCmd) = s.expCmd) ∧
      t.verdict = 0b11111 ∧ t.reason = 0 ∧ t.trace = s.trace ++ [.accept t.rspbuf])

/-- An arriving byte and a byte step commute (60_exceptions.md R217 (b)): while the RX stream holds a
byte and the transport is unbounded, TRANSPORT then DEC gives what DEC then TRANSPORT gives. -/
def Obligations.ArrivalAndByteStepCommute : Prop :=
  ∀ (s : State) (b : Byte), s.cfg.rxFifoDepth = none → s.rx ≠ [] →
    decStep (arrive b s) = thenNext (decStep s) (arrive b)

/-- An arriving byte (20_memory.md R41): appended and nothing else while the transport has room; past its
capacity some bytes are lost, those that stay keep their order, and the capacity is respected. Which
are lost is a free value of the model (log entry 11). -/
def Obligations.ArrivalAppendsOrOverflows : Prop :=
  ∀ (b : Byte) (s : State),
    ((∀ depth, s.cfg.rxFifoDepth = some depth → s.rx.length < depth) →
      arrive b s = { s with rx := s.rx ++ [b] }) ∧
    (∀ depth, s.cfg.rxFifoDepth = some depth → depth ≤ s.rx.length →
      ∃ kept : List Byte, arrive b s = { s with rx := kept, freeCount := s.freeCount + 1 } ∧
        kept.Sublist (s.rx ++ [b]) ∧ kept.length ≤ depth)

/-- The reset event (70_reset_and_hazards.md R240, R241, R242): the values the spec gives, an empty TX
history, a new session, and the RX stream and the configuration as they were; a pending write and a wait
in progress are abandoned. The reset values are the spec's decision D4. -/
def Obligations.ResetRestoresTheStatedValues : Prop :=
  ∀ (s : State) (ts : List Turn), s.schedule = .reset :: ts →
    ∃ t : State, step s = .next t ∧ t.schedule = ts ∧
      t.rxstate = .hunt ∧ t.rxcnt = 0 ∧ t.armed = false ∧ t.txpend = false ∧ t.rspvalid = false ∧
      t.verdict = 0b00000 ∧ t.reason = 0 ∧ t.tgt = s.cfg.tgtReset ∧ t.txHistory = [] ∧
      t.rx = s.rx ∧ t.cfg = s.cfg ∧ t.phase = .idle ∧ t.line = .idle ∧
      t.cache.id = 0xFFFF ∧ t.cache.mode = none ∧ t.cache.run = none ∧ t.cache.duty = none ∧
      t.cache.fw = none

/-- 10_state.md R29 at the machine's own reset: the values the spec gives, by its decision D4. -/
def Obligations.ResetStateHasTheStatedValues : Prop :=
  State.reset.rxstate = .hunt ∧ State.reset.rxcnt = 0 ∧ State.reset.armed = false ∧
  State.reset.txpend = false ∧ State.reset.rspvalid = false ∧ State.reset.verdict = 0b00000 ∧
  State.reset.reason = 0 ∧ State.reset.tgt = 0xFFFF

/-- Every refusal of a step has its cause in the spec's list (60_exceptions.md R214): an overlapping
request with something pending or awaited, a short write, and so on; the model's own refusal is that of
an issued frame that is no command frame (log entry 7). -/
def Obligations.EveryRefusalHasItsCause : Prop :=
  ∀ (s : State) (r : Refusal), step s = .refused r →
    (r = .overlappingRequest ∧ (s.txpend = true ∨ s.armed = true)) ∨
    (r = .tooManyArgs ∧ ∃ c args rest, s.program = .encode c args :: rest ∧ 12 < args.length) ∨
    (r = .operandRange ∧
      ((∃ m rest, s.program = .call (.setMode m) :: rest ∧ 1 < m.toNat) ∨
       (∃ v rest, s.program = .call (.setRun v) :: rest ∧ 1 < v.toNat) ∨
       (∃ f rest d, s.program = .issue f :: rest ∧
          issuedInstruction s.cfg.layout f = .ok (.setDuty d) ∧ 30 < d.toNat))) ∨
    (r = .badExpectation ∧ ∃ ty c rest, s.program = .arm ty c :: rest ∧ ty ≠ 0xC0 ∧ ty ≠ 0xC5) ∨
    (r = .nothingToSend ∧ s.txpend = false) ∨
    (r = .shortWrite ∧ s.txpend = true ∧ ∃ n rest, s.answers = .short n :: rest) ∨
    (∃ e f rest, r = .notACommandFrame e ∧ s.program = .issue f :: rest ∧
      issuedInstruction s.cfg.layout f = .error e)

/-! ### The host's sequences -/

/-- `poll` (44_host_sequences.md R185): no command is written; the first step arms for a measurement. The
ignored command byte of the expectation is a free value of the model (log entry 12); the host moves first
when nothing is scheduled (log entry 5). -/
def Obligations.PollArmsForAMeasurement : Prop :=
  ∀ (s : State) (rest : List HostOp), s.schedule = [] → s.phase = .idle → s.program = .call .poll :: rest →
    acceptedLine s = none →
    s.armed = false → s.txpend = false →
    ∃ c : Byte, step s = .next { s with
      program := rest, expType := 0xC0, expCmd := c, rspvalid := false, armed := true
      phase := .awaiting .poll, line := .idle, freeCount := s.freeCount + 1 }

/-- After its frame is written, each request arms the expectation of the table of 44_host_sequences.md
R183: a measurement for `query`, with a free command byte (log entry 12), for every other request an ack
echoing the command byte just written. -/
def Obligations.RequestsArmTheExpectationOfTheirCommand : Prop :=
  ∀ (s : State) (r : Request) (c : Byte), s.armed = false → s.txpend = false →
    s.phase = .arming r → r ≠ .poll → r ≠ .setRun 0 → issuedByte r = some c →
    (r ≠ .query → hostStep s = .next { s with
      expType := 0xC5, expCmd := c, rspvalid := false, armed := true, phase := .awaiting r }) ∧
    (r = .query → ∃ e : Byte, hostStep s = .next { s with
      expType := 0xC0, expCmd := e, rspvalid := false, armed := true, phase := .awaiting r
      freeCount := s.freeCount + 1 })

/-- "Response Accepted" (44_host_sequences.md R184): the ID is always refreshed, mode, run-state, duty and
firmware only for the matching command, with the acknowledged value; then the host is idle again, and
the block is untouched. The value returned is that of R183, R187 and R190 to R192: the measurement, the
acknowledged value, the firmware string, or the response's ID. That measurement frames refresh the ID too
is the spec's decision D25; the string as a list of characters is log entry 23. A request spelled out by
single lines is finished the same way once its wait has its frame, before the next line; that the lines of
a firmware query return the firmware string is the model's choice (log entry 26). -/
def Obligations.AcceptedResponseRefreshesTheCache : Prop :=
  (∀ (s : State) (r : Request), s.phase = .awaiting r → s.armed = false → s.rspvalid = true →
    ∃ (v : Returned) (cache : SensorState),
      hostStep s = .next { s with cache := cache, returned := s.returned ++ [v], phase := .idle } ∧
      cache.id = rspId s.rspbuf ∧
      cache.mode = (if issuedByte r = some 2 then some (ackVal s.cfg s.rspbuf) else s.cache.mode) ∧
      cache.run = (if issuedByte r = some 6 then some (ackVal s.cfg s.rspbuf) else s.cache.run) ∧
      cache.duty = (if issuedByte r = some 8 then some (ackVal s.cfg s.rspbuf) else s.cache.duty) ∧
      cache.fw = (if issuedByte r = some 7
        then some (fwYear s.cfg s.rspbuf, fwMonth s.cfg s.rspbuf, fwDay s.cfg s.rspbuf) else s.cache.fw) ∧
      (r = .poll ∨ r = .query →
        v = .measurement (rspId s.rspbuf) (measPm25 s.rspbuf) (measPm10 s.rspbuf)) ∧
      (r = .getMode ∨ r = .getRun ∨ r = .getDuty ∨ (∃ b, r = .setMode b ∨ r = .setRun b) ∨
        (∃ d, r = .setDuty d) → v = .value (ackVal s.cfg s.rspbuf)) ∧
      (r = .getFirmware →
        v = .firmware (fwString (fwYear s.cfg s.rspbuf) (fwMonth s.cfg s.rspbuf) (fwDay s.cfg s.rspbuf))) ∧
      (r = .getId ∨ (∃ n, r = .setId n) → v = .deviceId (rspId s.rspbuf))) ∧
  (∀ (s : State) (issued : Option Byte), s.phase = .idle → s.line = .waiting issued → s.armed = false →
    s.rspvalid = true →
    ∃ (vs : List Returned) (cache : SensorState),
      hostStep s = .next { s with cache := cache, returned := s.returned ++ vs, line := .idle } ∧
      cache.id = rspId s.rspbuf ∧
      cache.mode = (if issued = some 2 then some (ackVal s.cfg s.rspbuf) else s.cache.mode) ∧
      cache.run = (if issued = some 6 then some (ackVal s.cfg s.rspbuf) else s.cache.run) ∧
      cache.duty = (if issued = some 8 then some (ackVal s.cfg s.rspbuf) else s.cache.duty) ∧
      cache.fw = (if issued = some 7
        then some (fwYear s.cfg s.rspbuf, fwMonth s.cfg s.rspbuf, fwDay s.cfg s.rspbuf) else s.cache.fw) ∧
      (s.expType = 0xC0 → issued = none ∨ issued = some 4 →
        vs = [.measurement (rspId s.rspbuf) (measPm25 s.rspbuf) (measPm10 s.rspbuf)]) ∧
      (∀ c : Byte, s.expType = 0xC5 → s.expCmd = c → issued = some c →
        (c = 2 ∨ c = 6 ∨ c = 8 → vs = [.value (ackVal s.cfg s.rspbuf)]) ∧
        (c = 7 → vs = [.firmware
          (fwString (fwYear s.cfg s.rspbuf) (fwMonth s.cfg s.rspbuf) (fwDay s.cfg s.rspbuf))]) ∧
        (c = 5 → vs = [.deviceId (rspId s.rspbuf)])) ∧
      vs.length ≤ 1)

/-- `sleep` (44_host_sequences.md R189), as a run whose write fails any number of times and then
succeeds: the frame goes out, `S.RUN` becomes 0 and 0 is returned without any read, wait or change of
RSPVALID, and nothing else of the cache changes. What a failed write leaves on the
wire is the spec's decision D13 and an input of the model (log entry 13); that only the host moves in these
steps is the order of the agents with an empty schedule (log entry 5). -/
def Obligations.SleepReturnsWithoutAnyRead : Prop :=
  ∀ (s : State) (rest : List HostOp) (sents : List Nat) (as : List WriteAnswer), s.schedule = [] →
    s.phase = .idle → s.program = .call .sleep :: rest →
    s.answers = sents.map WriteAnswer.error ++ WriteAnswer.ok :: as →
    acceptedLine s = none → s.txpend = false → s.armed = false →
    ∃ f : List Byte, EmittedFrame s.cfg.layout f ∧ byteAt f 2 = 0x06 ∧ byteAt f 3 = 0x01 ∧ byteAt f 4 = 0x00 ∧
      Sys2Proof.core.run (sents.length + 3) s = .next { s with
        program := rest, answers := as, txbuf := f
        txHistory := s.txHistory ++ (sents.map fun n => f.take n).flatten ++ f
        trace := s.trace ++ [.tx f], cache := { s.cache with run := some 0 }
        returned := s.returned ++ [.value 0], line := .idle }

/-- A getter with `TRACK = 1` whose field is known (44_host_sequences.md R193, R194), even while the block is
busy (log entry 17; the host moves first when nothing is scheduled, log entry 5): the value is
returned in one step and nothing else changes, neither block nor streams nor cache. -/
def Obligations.CachedGetterLeavesTheBlockAlone : Prop :=
  ∀ (s : State) (r : Request) (v : Returned) (rest : List HostOp), s.schedule = [] → s.phase = .idle →
    acceptedLine s = none → s.program = .call r :: rest → s.cfg.track = true →
    ((r = .getMode ∧ ∃ b, s.cache.mode = some b ∧ v = .value b) ∨
     (r = .getRun ∧ ∃ b, s.cache.run = some b ∧ v = .value b) ∨
     (r = .getDuty ∧ ∃ b, s.cache.duty = some b ∧ v = .value b) ∨
     (r = .getFirmware ∧ ∃ y m d, s.cache.fw = some (y, m, d) ∧ v = .firmware (fwString y m d)) ∨
     (r = .getId ∧ s.cache.id ≠ 0xFFFF ∧ v = .deviceId s.cache.id)) →
    step s = .next { s with program := rest, returned := s.returned ++ [v] }

/-- The first step of a called request that is not answered from the cache (44_host_sequences.md R186 to
R193): a getter with `TRACK = 0` or with its field unknown, `query`, and the setters within their range
encode their command, to be written next; with a request in progress it is refused. `set_mode` and
`set_run` above 1 are refused (the spec's decision D17). The host moves first when nothing is scheduled
(log entry 5). -/
def Obligations.UncachedRequestEncodesItsCommand : Prop :=
  (∀ (s : State) (r : Request) (i : Instr) (rest : List HostOp), s.schedule = [] → s.phase = .idle →
    acceptedLine s = none → s.program = .call r :: rest →
    ((r = .getMode ∧ i = .getMode ∧ (s.cfg.track = false ∨ s.cache.mode = none)) ∨
     (r = .getRun ∧ i = .getRun ∧ (s.cfg.track = false ∨ s.cache.run = none)) ∨
     (r = .getDuty ∧ i = .getDuty ∧ (s.cfg.track = false ∨ s.cache.duty = none)) ∨
     (r = .getFirmware ∧ i = .getFw ∧ (s.cfg.track = false ∨ s.cache.fw = none)) ∨
     (r = .getId ∧ i = .getFw ∧ (s.cfg.track = false ∨ s.cache.id = 0xFFFF)) ∨
     (r = .query ∧ i = .query) ∨
     (∃ b : Byte, b.toNat ≤ 1 ∧ ((r = .setMode b ∧ i = .setMode b) ∨ (r = .setRun b ∧ i = .setRun b))) ∨
     (∃ d : Nat, d ≤ 30 ∧ r = .setDuty d ∧ i = .setDuty (BitVec.ofNat 8 d)) ∨
     (∃ n : Nat, n ≤ 0xFFFF ∧ r = .setId n ∧ i = .setId (BitVec.ofNat 16 n))) →
    (s.txpend = false → s.armed = false → ∃ f : List Byte,
      exec i { s with program := rest } = .next { s with program := rest, txbuf := f, txpend := true } ∧
      step s = .next { s with program := rest, txbuf := f, txpend := true, phase := .writing r, line := .idle }) ∧
    (s.txpend = true ∨ s.armed = true → step s = .refused .overlappingRequest)) ∧
  (∀ (s : State) (b : Byte) (rest : List HostOp), s.schedule = [] → s.phase = .idle →
    acceptedLine s = none → s.program = .call (.setMode b) :: rest ∨ s.program = .call (.setRun b) :: rest → 1 < b.toNat →
    step s = .refused .operandRange)

/-- The caller's input validation (44_host_sequences.md R195): a duty above 30 or an ID above `0xFFFF` is
a usage error at once; nothing is encoded, written or armed, whatever the block is doing (log entry
17; the host moves first when nothing is scheduled, log entry 5). -/
def Obligations.RejectedInputIsAUsageErrorOnly : Prop :=
  ∀ (s : State) (r : Request) (rest : List HostOp), s.schedule = [] → s.phase = .idle →
    acceptedLine s = none → s.program = .call r :: rest →
    ((∃ d : Nat, r = .setDuty d ∧ 30 < d) ∨ (∃ n : Nat, r = .setId n ∧ 0xFFFF < n)) →
    step s = .next { s with program := rest, returned := s.returned ++ [.usageError] }

/-- Whatever bytes arrive and whatever is collected, a turn of the decoder, of the transport or of reset, and
a step in which the host has none, answers a next state: the block raises nothing (60_exceptions.md R210;
that Fault is empty and that the refusals are the host's is log entry 16). A blocked or quiescent system
steps to the same state: that blocked is no error is the spec's decision D26 (70_reset_and_hazards.md R252,
R259), that the step then answers the same state the model's choice (log entry 5). -/
def Obligations.OnlyHostTurnsRefuseAndBlockedStandsStill : Prop :=
  (∀ s : State, s.schedule.head? ≠ some .host → (s.schedule = [] → hostReady s = false) →
    ∃ t : State, step s = .next t) ∧
  (∀ s : State, s.schedule = [] → s.feed = [] → Quiescent s → step s = .next s) ∧
  (∀ (s : State) (r : Request), s.schedule = [] → s.feed = [] → s.phase = .awaiting r →
    WaitingForBytes s → step s = .next s) ∧
  (∀ (s : State) (r : Request), s.schedule = [] → s.feed = [] → s.phase = .writing r → s.answers = [] →
    s.armed = false → step s = .next s)
end

