-- ==== Sys2Proof/Laws/Checksum.lean ====
section
/-!
SUPPORT. Lemmas about the checksum engine and the 16-bit arithmetic (40_checksum.md).
-/

namespace Sys2Proof

@[simp] theorem checksum_nil : checksum [] = 0 := rfl

@[simp] theorem accumulate_nil (acc : Byte) : accumulate acc [] = acc := rfl

@[simp] theorem accumulate_cons (acc b : Byte) (bs : List Byte) :
    accumulate acc (b :: bs) = accumulate (acc + b) bs := rfl

/-- The checksum of a non-empty sequence in byte arithmetic. -/
theorem checksum_cons (b : Byte) (bs : List Byte) : checksum (b :: bs) = b + checksum bs := by
  apply BitVec.eq_of_toNat_eq
  simp [checksum, byteSum]

/-- Zero bytes at the front add nothing (40_checksum.md R94 (c)). -/
theorem checksum_zero_cons (bs : List Byte) : checksum (0 :: bs) = checksum bs := by
  simp [checksum_cons]

theorem byteSum_eq_sum (bs : List Byte) : byteSum bs = (bs.map BitVec.toNat).sum := by
  induction bs with
  | nil => rfl
  | cons b bs ih => simp [byteSum, ih]

theorem checksum_toNat (bs : List Byte) : (checksum bs).toNat = byteSum bs % 256 := by
  simp [checksum]

@[simp] theorem lo8_u16le (lo hi : Byte) : lo8 (u16le lo hi) = lo := by
  apply BitVec.eq_of_toNat_eq
  have := lo.isLt
  have := hi.isLt
  simp [lo8, u16le]
  omega

@[simp] theorem hi8_u16le (lo hi : Byte) : hi8 (u16le lo hi) = hi := by
  apply BitVec.eq_of_toNat_eq
  have := lo.isLt
  have := hi.isLt
  simp [hi8, u16le]
  omega

@[simp] theorem u16le_lo8_hi8 (v : Half) : u16le (lo8 v) (hi8 v) = v := by
  apply BitVec.eq_of_toNat_eq
  have := v.isLt
  simp [lo8, hi8, u16le]
  omega

/-- A 16-bit value is zero exactly when both its bytes are. -/
theorem u16le_eq_zero (lo hi : Byte) : u16le lo hi = 0 ↔ lo = 0 ∧ hi = 0 := by
  constructor
  · intro h
    have hlo := lo8_u16le lo hi
    have hhi := hi8_u16le lo hi
    rw [h] at hlo hhi
    exact ⟨hlo.symm, hhi.symm⟩
  · rintro ⟨rfl, rfl⟩
    rfl

theorem lo8_hi8_eq_zero (v : Half) : (lo8 v = 0 ∧ hi8 v = 0) ↔ v = 0 := by
  rw [← u16le_eq_zero, u16le_lo8_hi8]

end Sys2Proof
end

