-- ==== Sys2Proof/Laws/Frame.lean ====
section
/-!
SUPPORT. Lemmas about the command frame builder and byte windows (30_encoding.md, 41_command_encoder.md).
-/

namespace Sys2Proof

/-- Twelve bytes, named. -/
theorem eq_of_length_twelve {α : Type} (xs : List α) (h : xs.length = 12) :
    ∃ a0 a1 a2 a3 a4 a5 a6 a7 a8 a9 a10 a11,
      xs = [a0, a1, a2, a3, a4, a5, a6, a7, a8, a9, a10, a11] := by
  match xs, h with
  | [a0, a1, a2, a3, a4, a5, a6, a7, a8, a9, a10, a11], _ =>
    exact ⟨a0, a1, a2, a3, a4, a5, a6, a7, a8, a9, a10, a11, rfl⟩

/-- A padded argument region has twelve bytes (30_encoding.md R66). -/
@[simp] theorem padArgs_length (args : List Byte) : (padArgs args).length = 12 := by
  simp [padArgs, zeros, nArg]

/-- Each byte of a padded argument region is the supplied byte, or 0 (30_encoding.md R66). -/
theorem padArgs_getD (args : List Byte) (k : Nat) (hk : k < 12) :
    (padArgs args).getD k 0 = args.getD k 0 := by
  have h : k < nArg := hk
  simp only [padArgs, zeros, List.getD_eq_getElem?_getD, List.getElem?_take, if_pos h,
    List.getElem?_append]
  split
  · rfl
  · rename_i hlt
    rw [List.getElem?_eq_none (by omega : args.length ≤ k), List.getElem?_replicate]
    split <;> rfl

/-- Twelve arguments need no padding. -/
theorem padArgs_of_length (args : List Byte) (h : args.length = 12) : padArgs args = args := by
  simp [padArgs, nArg, h]

/-- The supplied bytes, then zeros (30_encoding.md R66). -/
theorem padArgs_eq (args : List Byte) (h : args.length ≤ 12) :
    padArgs args = args ++ List.replicate (12 - args.length) 0 := by
  simp only [padArgs, zeros, nArg]
  rw [List.take_append, List.take_of_length_le h, List.take_replicate]
  congr 2
  omega

/-- The builder sees only the padded arguments. -/
theorem buildFrame_padArgs (l : Layout) (tgt : Half) (c : Byte) (args : List Byte) :
    buildFrame l tgt c (padArgs args) = buildFrame l tgt c args := by
  simp only [buildFrame, padArgs_of_length (padArgs args) (padArgs_length args)]

/-- The two bytes of the selector field under `L17`, where the pair of arguments 10, 11 stands. -/
def selectorL17 (tgt : Half) (a10 a11 : Byte) : Byte × Byte :=
  if a10 = 0 ∧ a11 = 0 then (lo8 (targetOrAny tgt), hi8 (targetOrAny tgt)) else (a10, a11)

/-- The selector rule on the bytes of an `L17` frame (41_command_encoder.md R101). -/
theorem applySelector_l17 (tgt : Half) (h m c a0 a1 a2 a3 a4 a5 a6 a7 a8 a9 a10 a11 x y : Byte) :
    applySelector .l17 tgt [h, m, c, a0, a1, a2, a3, a4, a5, a6, a7, a8, a9, a10, a11, x, y] =
      [h, m, c, a0, a1, a2, a3, a4, a5, a6, a7, a8, a9,
        (selectorL17 tgt a10 a11).1, (selectorL17 tgt a10 a11).2, x, y] := by
  change (if a10 = 0 ∧ a11 = 0 then _ else _) = _
  unfold selectorL17
  by_cases hz : a10 = 0 ∧ a11 = 0
  · rw [if_pos hz, if_pos hz]; rfl
  · rw [if_neg hz, if_neg hz]

/-- The selector rule on the bytes of an `L19` frame, whose selector bytes are still zero
(41_command_encoder.md R101 (d)). -/
theorem applySelector_l19 (tgt : Half) (h m c a0 a1 a2 a3 a4 a5 a6 a7 a8 a9 a10 a11 x y : Byte) :
    applySelector .l19 tgt [h, m, c, a0, a1, a2, a3, a4, a5, a6, a7, a8, a9, a10, a11, 0, 0, x, y] =
      [h, m, c, a0, a1, a2, a3, a4, a5, a6, a7, a8, a9, a10, a11,
        lo8 (targetOrAny tgt), hi8 (targetOrAny tgt), x, y] := rfl

/-- The frame of layout `L17`, byte by byte (30_encoding.md R60; 41_command_encoder.md R100). -/
theorem buildFrame_l17 (tgt : Half) (c a0 a1 a2 a3 a4 a5 a6 a7 a8 a9 a10 a11 : Byte) :
    buildFrame .l17 tgt c [a0, a1, a2, a3, a4, a5, a6, a7, a8, a9, a10, a11] =
      [0xAA, 0xB4, c, a0, a1, a2, a3, a4, a5, a6, a7, a8, a9,
        (selectorL17 tgt a10 a11).1, (selectorL17 tgt a10 a11).2,
        checksum [c, a0, a1, a2, a3, a4, a5, a6, a7, a8, a9,
          (selectorL17 tgt a10 a11).1, (selectorL17 tgt a10 a11).2], 0xAB] := by
  have placed : headByte :: markerByte :: c ::
      (padArgs [a0, a1, a2, a3, a4, a5, a6, a7, a8, a9, a10, a11] ++ zeros (cmdLen .l17 - 15)) =
        [headByte, markerByte, c, a0, a1, a2, a3, a4, a5, a6, a7, a8, a9, a10, a11, 0, 0] := rfl
  simp only [buildFrame, placed, applySelector_l17]
  rfl

/-- The frame of layout `L19`, byte by byte (30_encoding.md R60; 41_command_encoder.md R100). -/
theorem buildFrame_l19 (tgt : Half) (c a0 a1 a2 a3 a4 a5 a6 a7 a8 a9 a10 a11 : Byte) :
    buildFrame .l19 tgt c [a0, a1, a2, a3, a4, a5, a6, a7, a8, a9, a10, a11] =
      [0xAA, 0xB4, c, a0, a1, a2, a3, a4, a5, a6, a7, a8, a9, a10, a11,
        lo8 (targetOrAny tgt), hi8 (targetOrAny tgt),
        checksum [c, a0, a1, a2, a3, a4, a5, a6, a7, a8, a9, a10, a11,
          lo8 (targetOrAny tgt), hi8 (targetOrAny tgt)], 0xAB] := by
  have placed : headByte :: markerByte :: c ::
      (padArgs [a0, a1, a2, a3, a4, a5, a6, a7, a8, a9, a10, a11] ++ zeros (cmdLen .l19 - 15)) =
        [headByte, markerByte, c, a0, a1, a2, a3, a4, a5, a6, a7, a8, a9, a10, a11, 0, 0, 0, 0] := rfl
  simp only [buildFrame, placed, applySelector_l19]
  rfl

/-- Every frame has the length of its layout (30_encoding.md R78). -/
@[simp] theorem buildFrame_length (l : Layout) (tgt : Half) (c : Byte) (args : List Byte) :
    (buildFrame l tgt c args).length = cmdLen l := by
  obtain ⟨a0, a1, a2, a3, a4, a5, a6, a7, a8, a9, a10, a11, h⟩ :=
    eq_of_length_twelve (padArgs args) (padArgs_length args)
  rw [← buildFrame_padArgs, h]
  cases l
  · rw [buildFrame_l17]; rfl
  · rw [buildFrame_l19]; rfl

/-- A selector that is put in place of a zero one is never zero (41_command_encoder.md R101 (a)). -/
theorem targetOrAny_ne_zero (tgt : Half) : targetOrAny tgt ≠ 0 := by
  unfold targetOrAny
  split
  · decide
  · assumption

theorem targetOrAny_of_ne_zero {tgt : Half} (h : tgt ≠ 0) : targetOrAny tgt = tgt := if_neg h

@[simp] theorem Window.toList_length (w : Window) : w.toList.length = 10 := rfl

@[simp] theorem Window.ofList_toList (w : Window) : Window.ofList w.toList = w := rfl

/-- A byte after the ten of a window does not change what `Window.ofList` reads. -/
@[simp] theorem Window.ofList_toList_append (w : Window) (bs : List Byte) :
    Window.ofList (w.toList ++ bs) = w := rfl

@[simp] theorem Window.set_nine (w : Window) (b : Byte) : w.set 9 b = { w with b9 := b } := rfl

@[simp] theorem Window.set_zero (w : Window) (b : Byte) : w.set 0 b = { w with b0 := b } := rfl

/-- The bytes before the position counter are not touched by a store at it. -/
theorem Window.take_set (w : Window) (n : Fin 10) (b : Byte) :
    (w.set n b).toList.take n.val = w.toList.take n.val := by
  fin_cases n <;> rfl

/-- After a store the byte at the position counter is the stored one. -/
theorem Window.take_succ_set (w : Window) (n : Fin 10) (b : Byte) :
    (w.set n b).toList.take (n.val + 1) = w.toList.take n.val ++ [b] := by
  fin_cases n <;> rfl

/-- Byte 0 survives every store but the one at position 0. -/
theorem Window.set_b0 (w : Window) (n : Fin 10) (b : Byte) (h : n ≠ 0) : (w.set n b).b0 = w.b0 := by
  fin_cases n
  · exact absurd rfl h
  all_goals rfl

end Sys2Proof
end

