-- ==== Sys2Proof/Laws/Decode.lean ====
section
/-!
SUPPORT. Which row of the opcode table a frame is an instance of, said once (30_encoding.md R82).
-/

namespace Sys2Proof

/-- A frame is an instance of a row when its masked bytes are the row's pattern. -/
theorem Row.matches_iff {r : Row} {f : List Byte} {n : Nat} (h : f.length = n) :
    r.matches f = true ↔ List.zipWith (· &&& ·) f (rowBytes n r.mask) = rowBytes n r.pattern := by
  subst h
  simp [Row.matches]

/-- The mask of a byte that is wholly fixed. -/
theorem byte_and_all (x : Byte) : x &&& 255#8 = x := by revert x; decide

/-- The mask of a byte that is wholly free. -/
theorem byte_and_none (x : Byte) : x &&& 0#8 = 0#8 := by revert x; decide

/-- The mask of a one-bit operand. -/
theorem byte_and_oneBit (x : Byte) : x &&& 254#8 = 0#8 ↔ x ≤ 1 := by revert x; decide

/-- The mask of a five-bit operand. -/
theorem byte_and_fiveBits (x : Byte) : x &&& 224#8 = 0#8 ↔ x ≤ 31 := by revert x; decide

/-- What a frame between head and tail must be to be an instance of a response row. -/
def rspRowFits (w : Window) : RspForm → Prop
  | .meas => w.b1 = typeMeas
  | .ackMode => w.b1 = typeAck ∧ w.b2 = 0x02
  | .ackId => w.b1 = typeAck ∧ w.b2 = 0x05
  | .ackRun => w.b1 = typeAck ∧ w.b2 = 0x06
  | .ackFw => w.b1 = typeAck ∧ w.b2 = 0x07
  | .ackDuty => w.b1 = typeAck ∧ w.b2 = 0x08
  | .ackOther => w.b1 = typeAck

theorem rspRow_matches (w : Window) (g : RspForm) :
    (rspRow g).matches w.toList = true ↔ w.b0 = headByte ∧ w.b9 = tailByte ∧ rspRowFits w g := by
  rw [Row.matches_iff (Window.toList_length w)]
  have rows : rowBytes 10 (rspRow g).mask =
        [0xFF, 0xFF, if g = .meas ∨ g = .ackOther then 0 else 0xFF, 0, 0, 0, 0, 0, 0, 0xFF] ∧
      rowBytes 10 (rspRow g).pattern = [0xAA, if g = .meas then 0xC0 else 0xC5,
        (match g with
          | .meas => 0 | .ackMode => 2 | .ackId => 5 | .ackRun => 6 | .ackFw => 7 | .ackDuty => 8
          | .ackOther => 0), 0, 0, 0, 0, 0, 0, 0xAB] := by
    cases g <;> decide
  rw [rows.1, rows.2]
  cases g <;>
    simp [Window.toList, rspRowFits, byte_and_all, headByte, tailByte, typeMeas, typeAck] <;>
    tauto

/-- The row a response frame of a known type is an instance of, with head and tail in place
(30_encoding.md R74). -/
theorem rspFormOf_fits {w : Window} (h0 : w.b0 = headByte) (h9 : w.b9 = tailByte)
    (ht : w.b1 = typeMeas ∨ w.b1 = typeAck) :
    rspRowFits w (rspFormOf w) ∧ (rspFormOf w = .ackOther → w.b2 ∉ namedAckCommands) := by
  have fits : ∀ g, (rspRow g).matches w.toList = true ↔ rspRowFits w g := by
    intro g
    rw [rspRow_matches]
    tauto
  have misses : ∀ g, (rspRow g).matches w.toList = false ↔ ¬ rspRowFits w g := by
    intro g
    rw [← fits, Bool.not_eq_true]
  cases hf : namedRspForms.find? fun g => (rspRow g).matches w.toList with
  | some g =>
    have e : rspFormOf w = g := by simp [rspFormOf, hf]
    have hm := List.find?_some hf
    have hg := List.mem_of_find?_eq_some hf
    rw [e]
    refine ⟨(fits g).1 hm, ?_⟩
    rintro rfl
    simp [namedRspForms] at hg
  | none =>
    have e : rspFormOf w = .ackOther := by simp [rspFormOf, hf]
    have no := List.find?_eq_none.1 hf
    simp only [fits, namedRspForms, List.mem_cons, List.not_mem_nil, or_false, forall_eq_or_imp,
      forall_eq, rspRowFits, not_and] at no
    obtain ⟨n0, n2, n5, n6, n7, n8⟩ := no
    have hack : w.b1 = typeAck := ht.resolve_left n0
    rw [e]
    refine ⟨hack, fun _ => ?_⟩
    simp only [namedAckCommands, List.mem_cons, List.not_mem_nil, or_false, not_or]
    exact ⟨n2 hack, n5 hack, n6 hack, n7 hack, n8 hack⟩

/-- The command byte a named command row fixes; none for `RAW` (30_encoding.md R73). -/
def rowCommand : CmdForm → Option Byte
  | .getMode => some 0x02
  | .setMode => some 0x02
  | .query => some 0x04
  | .setId => some 0x05
  | .getRun => some 0x06
  | .setRun => some 0x06
  | .getFw => some 0x07
  | .getDuty => some 0x08
  | .setDuty => some 0x08
  | .raw => none

/-- The mask of a command row, byte by byte: command byte, first argument, second argument, eight
more, then argument bytes 10 and 11 under `L19`. -/
def rowMaskBytes (l : Layout) (g : CmdForm) : List Byte :=
  let fixed : Byte := if g = .raw then 0 else 0xFF
  [0xFF, 0xFF, fixed, fixed,
    match g with | .setMode => 0xFE | .setRun => 0xFE | .setDuty => 0xE0 | .raw => 0 | _ => 0xFF] ++
  List.replicate 8 fixed ++
  (match l with
    | .l17 => []
    | .l19 => List.replicate 2 (if g = .setId then 0 else fixed)) ++ [0, 0, 0, 0xFF]

/-- The pattern of a command row, byte by byte. -/
def rowPatternBytes (l : Layout) (g : CmdForm) : List Byte :=
  [0xAA, 0xB4, (rowCommand g).getD 0,
    match g with | .setMode => 1 | .setRun => 1 | .setDuty => 1 | _ => 0] ++
  zeros (cmdLen l - 5) ++ [0xAB]

theorem rowBytes_mask (l : Layout) (g : CmdForm) :
    rowBytes (cmdLen l) (cmdRow l g).mask = rowMaskBytes l g := by
  cases l <;> cases g <;> decide

theorem rowBytes_pattern (l : Layout) (g : CmdForm) :
    rowBytes (cmdLen l) (cmdRow l g).pattern = rowPatternBytes l g := by
  cases l <;> cases g <;> decide

/-- A command frame is an instance of a row when its masked bytes are the row's pattern. -/
theorem cmdRow_matches {l : Layout} {g : CmdForm} {f : List Byte} (h : f.length = cmdLen l) :
    (cmdRow l g).matches f = true ↔
      List.zipWith (· &&& ·) f (rowMaskBytes l g) = rowPatternBytes l g := by
  rw [Row.matches_iff h, rowBytes_mask, rowBytes_pattern]

end Sys2Proof
end

