-- ==== Sys2Proof/Laws/State.lean ====
section
/-!
SUPPORT. What each named update of State does to each field, true by definition.
-/

namespace Sys2Proof.Machine

/-! ### `emit` -/

@[simp] theorem State.emit_cfg (s : State) (e : Event) : (s.emit e).cfg = s.cfg := rfl
@[simp] theorem State.emit_txbuf (s : State) (e : Event) : (s.emit e).txbuf = s.txbuf := rfl
@[simp] theorem State.emit_txpend (s : State) (e : Event) : (s.emit e).txpend = s.txpend := rfl
@[simp] theorem State.emit_tgt (s : State) (e : Event) : (s.emit e).tgt = s.tgt := rfl
@[simp] theorem State.emit_rxbuf (s : State) (e : Event) : (s.emit e).rxbuf = s.rxbuf := rfl
@[simp] theorem State.emit_rxstate (s : State) (e : Event) : (s.emit e).rxstate = s.rxstate := rfl
@[simp] theorem State.emit_rxcnt (s : State) (e : Event) : (s.emit e).rxcnt = s.rxcnt := rfl
@[simp] theorem State.emit_armed (s : State) (e : Event) : (s.emit e).armed = s.armed := rfl
@[simp] theorem State.emit_expType (s : State) (e : Event) : (s.emit e).expType = s.expType := rfl
@[simp] theorem State.emit_expCmd (s : State) (e : Event) : (s.emit e).expCmd = s.expCmd := rfl
@[simp] theorem State.emit_verdict (s : State) (e : Event) : (s.emit e).verdict = s.verdict := rfl
@[simp] theorem State.emit_reason (s : State) (e : Event) : (s.emit e).reason = s.reason := rfl
@[simp] theorem State.emit_rspbuf (s : State) (e : Event) : (s.emit e).rspbuf = s.rspbuf := rfl
@[simp] theorem State.emit_rspvalid (s : State) (e : Event) : (s.emit e).rspvalid = s.rspvalid := rfl
@[simp] theorem State.emit_rx (s : State) (e : Event) : (s.emit e).rx = s.rx := rfl
@[simp] theorem State.emit_txHistory (s : State) (e : Event) : (s.emit e).txHistory = s.txHistory := rfl
@[simp] theorem State.emit_cache (s : State) (e : Event) : (s.emit e).cache = s.cache := rfl
@[simp] theorem State.emit_phase (s : State) (e : Event) : (s.emit e).phase = s.phase := rfl
@[simp] theorem State.emit_line (s : State) (e : Event) : (s.emit e).line = s.line := rfl
@[simp] theorem State.emit_returned (s : State) (e : Event) : (s.emit e).returned = s.returned := rfl
@[simp] theorem State.emit_program (s : State) (e : Event) : (s.emit e).program = s.program := rfl
@[simp] theorem State.emit_feed (s : State) (e : Event) : (s.emit e).feed = s.feed := rfl
@[simp] theorem State.emit_answers (s : State) (e : Event) : (s.emit e).answers = s.answers := rfl
@[simp] theorem State.emit_schedule (s : State) (e : Event) : (s.emit e).schedule = s.schedule := rfl
@[simp] theorem State.emit_trace (s : State) (e : Event) : (s.emit e).trace = s.trace ++ [e] := rfl
@[simp] theorem State.emit_freeCount (s : State) (e : Event) : (s.emit e).freeCount = s.freeCount := rfl

/-! ### `loadFrame` -/

@[simp] theorem State.loadFrame_cfg (s : State) (f : List Byte) : (s.loadFrame f).cfg = s.cfg := rfl
@[simp] theorem State.loadFrame_txbuf (s : State) (f : List Byte) : (s.loadFrame f).txbuf = f := rfl
@[simp] theorem State.loadFrame_txpend (s : State) (f : List Byte) : (s.loadFrame f).txpend = true := rfl
@[simp] theorem State.loadFrame_tgt (s : State) (f : List Byte) : (s.loadFrame f).tgt = s.tgt := rfl
@[simp] theorem State.loadFrame_rxbuf (s : State) (f : List Byte) : (s.loadFrame f).rxbuf = s.rxbuf := rfl
@[simp] theorem State.loadFrame_rxstate (s : State) (f : List Byte) : (s.loadFrame f).rxstate = s.rxstate := rfl
@[simp] theorem State.loadFrame_rxcnt (s : State) (f : List Byte) : (s.loadFrame f).rxcnt = s.rxcnt := rfl
@[simp] theorem State.loadFrame_armed (s : State) (f : List Byte) : (s.loadFrame f).armed = s.armed := rfl
@[simp] theorem State.loadFrame_expType (s : State) (f : List Byte) : (s.loadFrame f).expType = s.expType := rfl
@[simp] theorem State.loadFrame_expCmd (s : State) (f : List Byte) : (s.loadFrame f).expCmd = s.expCmd := rfl
@[simp] theorem State.loadFrame_verdict (s : State) (f : List Byte) : (s.loadFrame f).verdict = s.verdict := rfl
@[simp] theorem State.loadFrame_reason (s : State) (f : List Byte) : (s.loadFrame f).reason = s.reason := rfl
@[simp] theorem State.loadFrame_rspbuf (s : State) (f : List Byte) : (s.loadFrame f).rspbuf = s.rspbuf := rfl
@[simp] theorem State.loadFrame_rspvalid (s : State) (f : List Byte) : (s.loadFrame f).rspvalid = s.rspvalid := rfl
@[simp] theorem State.loadFrame_rx (s : State) (f : List Byte) : (s.loadFrame f).rx = s.rx := rfl
@[simp] theorem State.loadFrame_txHistory (s : State) (f : List Byte) : (s.loadFrame f).txHistory = s.txHistory := rfl
@[simp] theorem State.loadFrame_cache (s : State) (f : List Byte) : (s.loadFrame f).cache = s.cache := rfl
@[simp] theorem State.loadFrame_phase (s : State) (f : List Byte) : (s.loadFrame f).phase = s.phase := rfl
@[simp] theorem State.loadFrame_line (s : State) (f : List Byte) : (s.loadFrame f).line = s.line := rfl
@[simp] theorem State.loadFrame_returned (s : State) (f : List Byte) : (s.loadFrame f).returned = s.returned := rfl
@[simp] theorem State.loadFrame_program (s : State) (f : List Byte) : (s.loadFrame f).program = s.program := rfl
@[simp] theorem State.loadFrame_feed (s : State) (f : List Byte) : (s.loadFrame f).feed = s.feed := rfl
@[simp] theorem State.loadFrame_answers (s : State) (f : List Byte) : (s.loadFrame f).answers = s.answers := rfl
@[simp] theorem State.loadFrame_schedule (s : State) (f : List Byte) : (s.loadFrame f).schedule = s.schedule := rfl
@[simp] theorem State.loadFrame_trace (s : State) (f : List Byte) : (s.loadFrame f).trace = s.trace := rfl
@[simp] theorem State.loadFrame_freeCount (s : State) (f : List Byte) : (s.loadFrame f).freeCount = s.freeCount := rfl

/-! ### `setTgt` -/

@[simp] theorem State.setTgt_cfg (s : State) (t : Half) : (s.setTgt t).cfg = s.cfg := rfl
@[simp] theorem State.setTgt_txbuf (s : State) (t : Half) : (s.setTgt t).txbuf = s.txbuf := rfl
@[simp] theorem State.setTgt_txpend (s : State) (t : Half) : (s.setTgt t).txpend = s.txpend := rfl
@[simp] theorem State.setTgt_tgt (s : State) (t : Half) : (s.setTgt t).tgt = t := rfl
@[simp] theorem State.setTgt_rxbuf (s : State) (t : Half) : (s.setTgt t).rxbuf = s.rxbuf := rfl
@[simp] theorem State.setTgt_rxstate (s : State) (t : Half) : (s.setTgt t).rxstate = s.rxstate := rfl
@[simp] theorem State.setTgt_rxcnt (s : State) (t : Half) : (s.setTgt t).rxcnt = s.rxcnt := rfl
@[simp] theorem State.setTgt_armed (s : State) (t : Half) : (s.setTgt t).armed = s.armed := rfl
@[simp] theorem State.setTgt_expType (s : State) (t : Half) : (s.setTgt t).expType = s.expType := rfl
@[simp] theorem State.setTgt_expCmd (s : State) (t : Half) : (s.setTgt t).expCmd = s.expCmd := rfl
@[simp] theorem State.setTgt_verdict (s : State) (t : Half) : (s.setTgt t).verdict = s.verdict := rfl
@[simp] theorem State.setTgt_reason (s : State) (t : Half) : (s.setTgt t).reason = s.reason := rfl
@[simp] theorem State.setTgt_rspbuf (s : State) (t : Half) : (s.setTgt t).rspbuf = s.rspbuf := rfl
@[simp] theorem State.setTgt_rspvalid (s : State) (t : Half) : (s.setTgt t).rspvalid = s.rspvalid := rfl
@[simp] theorem State.setTgt_rx (s : State) (t : Half) : (s.setTgt t).rx = s.rx := rfl
@[simp] theorem State.setTgt_txHistory (s : State) (t : Half) : (s.setTgt t).txHistory = s.txHistory := rfl
@[simp] theorem State.setTgt_cache (s : State) (t : Half) : (s.setTgt t).cache = s.cache := rfl
@[simp] theorem State.setTgt_phase (s : State) (t : Half) : (s.setTgt t).phase = s.phase := rfl
@[simp] theorem State.setTgt_line (s : State) (t : Half) : (s.setTgt t).line = s.line := rfl
@[simp] theorem State.setTgt_returned (s : State) (t : Half) : (s.setTgt t).returned = s.returned := rfl
@[simp] theorem State.setTgt_program (s : State) (t : Half) : (s.setTgt t).program = s.program := rfl
@[simp] theorem State.setTgt_feed (s : State) (t : Half) : (s.setTgt t).feed = s.feed := rfl
@[simp] theorem State.setTgt_answers (s : State) (t : Half) : (s.setTgt t).answers = s.answers := rfl
@[simp] theorem State.setTgt_schedule (s : State) (t : Half) : (s.setTgt t).schedule = s.schedule := rfl
@[simp] theorem State.setTgt_trace (s : State) (t : Half) : (s.setTgt t).trace = s.trace := rfl
@[simp] theorem State.setTgt_freeCount (s : State) (t : Half) : (s.setTgt t).freeCount = s.freeCount := rfl

/-! ### `frameSent` -/

@[simp] theorem State.frameSent_cfg (s : State) : s.frameSent.cfg = s.cfg := rfl
@[simp] theorem State.frameSent_txbuf (s : State) : s.frameSent.txbuf = s.txbuf := rfl
@[simp] theorem State.frameSent_txpend (s : State) : s.frameSent.txpend = false := rfl
@[simp] theorem State.frameSent_tgt (s : State) : s.frameSent.tgt = s.tgt := rfl
@[simp] theorem State.frameSent_rxbuf (s : State) : s.frameSent.rxbuf = s.rxbuf := rfl
@[simp] theorem State.frameSent_rxstate (s : State) : s.frameSent.rxstate = s.rxstate := rfl
@[simp] theorem State.frameSent_rxcnt (s : State) : s.frameSent.rxcnt = s.rxcnt := rfl
@[simp] theorem State.frameSent_armed (s : State) : s.frameSent.armed = s.armed := rfl
@[simp] theorem State.frameSent_expType (s : State) : s.frameSent.expType = s.expType := rfl
@[simp] theorem State.frameSent_expCmd (s : State) : s.frameSent.expCmd = s.expCmd := rfl
@[simp] theorem State.frameSent_verdict (s : State) : s.frameSent.verdict = s.verdict := rfl
@[simp] theorem State.frameSent_reason (s : State) : s.frameSent.reason = s.reason := rfl
@[simp] theorem State.frameSent_rspbuf (s : State) : s.frameSent.rspbuf = s.rspbuf := rfl
@[simp] theorem State.frameSent_rspvalid (s : State) : s.frameSent.rspvalid = s.rspvalid := rfl
@[simp] theorem State.frameSent_rx (s : State) : s.frameSent.rx = s.rx := rfl
@[simp] theorem State.frameSent_txHistory (s : State) : s.frameSent.txHistory = s.txHistory ++ s.txbuf := rfl
@[simp] theorem State.frameSent_cache (s : State) : s.frameSent.cache = s.cache := rfl
@[simp] theorem State.frameSent_phase (s : State) : s.frameSent.phase = s.phase := rfl
@[simp] theorem State.frameSent_line (s : State) : s.frameSent.line = s.line := rfl
@[simp] theorem State.frameSent_returned (s : State) : s.frameSent.returned = s.returned := rfl
@[simp] theorem State.frameSent_program (s : State) : s.frameSent.program = s.program := rfl
@[simp] theorem State.frameSent_feed (s : State) : s.frameSent.feed = s.feed := rfl
@[simp] theorem State.frameSent_answers (s : State) : s.frameSent.answers = s.answers := rfl
@[simp] theorem State.frameSent_schedule (s : State) : s.frameSent.schedule = s.schedule := rfl
@[simp] theorem State.frameSent_trace (s : State) : s.frameSent.trace = s.trace := rfl
@[simp] theorem State.frameSent_freeCount (s : State) : s.frameSent.freeCount = s.freeCount := rfl

/-! ### `frameFailed` -/

@[simp] theorem State.frameFailed_cfg (s : State) (n : Nat) : (s.frameFailed n).cfg = s.cfg := rfl
@[simp] theorem State.frameFailed_txbuf (s : State) (n : Nat) : (s.frameFailed n).txbuf = s.txbuf := rfl
@[simp] theorem State.frameFailed_txpend (s : State) (n : Nat) : (s.frameFailed n).txpend = s.txpend := rfl
@[simp] theorem State.frameFailed_tgt (s : State) (n : Nat) : (s.frameFailed n).tgt = s.tgt := rfl
@[simp] theorem State.frameFailed_rxbuf (s : State) (n : Nat) : (s.frameFailed n).rxbuf = s.rxbuf := rfl
@[simp] theorem State.frameFailed_rxstate (s : State) (n : Nat) : (s.frameFailed n).rxstate = s.rxstate := rfl
@[simp] theorem State.frameFailed_rxcnt (s : State) (n : Nat) : (s.frameFailed n).rxcnt = s.rxcnt := rfl
@[simp] theorem State.frameFailed_armed (s : State) (n : Nat) : (s.frameFailed n).armed = s.armed := rfl
@[simp] theorem State.frameFailed_expType (s : State) (n : Nat) : (s.frameFailed n).expType = s.expType := rfl
@[simp] theorem State.frameFailed_expCmd (s : State) (n : Nat) : (s.frameFailed n).expCmd = s.expCmd := rfl
@[simp] theorem State.frameFailed_verdict (s : State) (n : Nat) : (s.frameFailed n).verdict = s.verdict := rfl
@[simp] theorem State.frameFailed_reason (s : State) (n : Nat) : (s.frameFailed n).reason = s.reason := rfl
@[simp] theorem State.frameFailed_rspbuf (s : State) (n : Nat) : (s.frameFailed n).rspbuf = s.rspbuf := rfl
@[simp] theorem State.frameFailed_rspvalid (s : State) (n : Nat) : (s.frameFailed n).rspvalid = s.rspvalid := rfl
@[simp] theorem State.frameFailed_rx (s : State) (n : Nat) : (s.frameFailed n).rx = s.rx := rfl
@[simp] theorem State.frameFailed_txHistory (s : State) (n : Nat) : (s.frameFailed n).txHistory = s.txHistory ++ s.txbuf.take n := rfl
@[simp] theorem State.frameFailed_cache (s : State) (n : Nat) : (s.frameFailed n).cache = s.cache := rfl
@[simp] theorem State.frameFailed_phase (s : State) (n : Nat) : (s.frameFailed n).phase = s.phase := rfl
@[simp] theorem State.frameFailed_line (s : State) (n : Nat) : (s.frameFailed n).line = s.line := rfl
@[simp] theorem State.frameFailed_returned (s : State) (n : Nat) : (s.frameFailed n).returned = s.returned := rfl
@[simp] theorem State.frameFailed_program (s : State) (n : Nat) : (s.frameFailed n).program = s.program := rfl
@[simp] theorem State.frameFailed_feed (s : State) (n : Nat) : (s.frameFailed n).feed = s.feed := rfl
@[simp] theorem State.frameFailed_answers (s : State) (n : Nat) : (s.frameFailed n).answers = s.answers := rfl
@[simp] theorem State.frameFailed_schedule (s : State) (n : Nat) : (s.frameFailed n).schedule = s.schedule := rfl
@[simp] theorem State.frameFailed_trace (s : State) (n : Nat) : (s.frameFailed n).trace = s.trace := rfl
@[simp] theorem State.frameFailed_freeCount (s : State) (n : Nat) : (s.frameFailed n).freeCount = s.freeCount := rfl

/-! ### `latchExpectation` -/

@[simp] theorem State.latchExpectation_cfg (s : State) (ty c : Byte) : (s.latchExpectation ty c).cfg = s.cfg := rfl
@[simp] theorem State.latchExpectation_txbuf (s : State) (ty c : Byte) : (s.latchExpectation ty c).txbuf = s.txbuf := rfl
@[simp] theorem State.latchExpectation_txpend (s : State) (ty c : Byte) : (s.latchExpectation ty c).txpend = s.txpend := rfl
@[simp] theorem State.latchExpectation_tgt (s : State) (ty c : Byte) : (s.latchExpectation ty c).tgt = s.tgt := rfl
@[simp] theorem State.latchExpectation_rxbuf (s : State) (ty c : Byte) : (s.latchExpectation ty c).rxbuf = s.rxbuf := rfl
@[simp] theorem State.latchExpectation_rxstate (s : State) (ty c : Byte) : (s.latchExpectation ty c).rxstate = s.rxstate := rfl
@[simp] theorem State.latchExpectation_rxcnt (s : State) (ty c : Byte) : (s.latchExpectation ty c).rxcnt = s.rxcnt := rfl
@[simp] theorem State.latchExpectation_armed (s : State) (ty c : Byte) : (s.latchExpectation ty c).armed = true := rfl
@[simp] theorem State.latchExpectation_expType (s : State) (ty c : Byte) : (s.latchExpectation ty c).expType = ty := rfl
@[simp] theorem State.latchExpectation_expCmd (s : State) (ty c : Byte) : (s.latchExpectation ty c).expCmd = c := rfl
@[simp] theorem State.latchExpectation_verdict (s : State) (ty c : Byte) : (s.latchExpectation ty c).verdict = s.verdict := rfl
@[simp] theorem State.latchExpectation_reason (s : State) (ty c : Byte) : (s.latchExpectation ty c).reason = s.reason := rfl
@[simp] theorem State.latchExpectation_rspbuf (s : State) (ty c : Byte) : (s.latchExpectation ty c).rspbuf = s.rspbuf := rfl
@[simp] theorem State.latchExpectation_rspvalid (s : State) (ty c : Byte) : (s.latchExpectation ty c).rspvalid = false := rfl
@[simp] theorem State.latchExpectation_rx (s : State) (ty c : Byte) : (s.latchExpectation ty c).rx = s.rx := rfl
@[simp] theorem State.latchExpectation_txHistory (s : State) (ty c : Byte) : (s.latchExpectation ty c).txHistory = s.txHistory := rfl
@[simp] theorem State.latchExpectation_cache (s : State) (ty c : Byte) : (s.latchExpectation ty c).cache = s.cache := rfl
@[simp] theorem State.latchExpectation_phase (s : State) (ty c : Byte) : (s.latchExpectation ty c).phase = s.phase := rfl
@[simp] theorem State.latchExpectation_line (s : State) (ty c : Byte) : (s.latchExpectation ty c).line = s.line := rfl
@[simp] theorem State.latchExpectation_returned (s : State) (ty c : Byte) : (s.latchExpectation ty c).returned = s.returned := rfl
@[simp] theorem State.latchExpectation_program (s : State) (ty c : Byte) : (s.latchExpectation ty c).program = s.program := rfl
@[simp] theorem State.latchExpectation_feed (s : State) (ty c : Byte) : (s.latchExpectation ty c).feed = s.feed := rfl
@[simp] theorem State.latchExpectation_answers (s : State) (ty c : Byte) : (s.latchExpectation ty c).answers = s.answers := rfl
@[simp] theorem State.latchExpectation_schedule (s : State) (ty c : Byte) : (s.latchExpectation ty c).schedule = s.schedule := rfl
@[simp] theorem State.latchExpectation_trace (s : State) (ty c : Byte) : (s.latchExpectation ty c).trace = s.trace := rfl
@[simp] theorem State.latchExpectation_freeCount (s : State) (ty c : Byte) : (s.latchExpectation ty c).freeCount = s.freeCount := rfl

/-! ### `withRx` -/

@[simp] theorem State.withRx_cfg (s : State) (bs : List Byte) : (s.withRx bs).cfg = s.cfg := rfl
@[simp] theorem State.withRx_txbuf (s : State) (bs : List Byte) : (s.withRx bs).txbuf = s.txbuf := rfl
@[simp] theorem State.withRx_txpend (s : State) (bs : List Byte) : (s.withRx bs).txpend = s.txpend := rfl
@[simp] theorem State.withRx_tgt (s : State) (bs : List Byte) : (s.withRx bs).tgt = s.tgt := rfl
@[simp] theorem State.withRx_rxbuf (s : State) (bs : List Byte) : (s.withRx bs).rxbuf = s.rxbuf := rfl
@[simp] theorem State.withRx_rxstate (s : State) (bs : List Byte) : (s.withRx bs).rxstate = s.rxstate := rfl
@[simp] theorem State.withRx_rxcnt (s : State) (bs : List Byte) : (s.withRx bs).rxcnt = s.rxcnt := rfl
@[simp] theorem State.withRx_armed (s : State) (bs : List Byte) : (s.withRx bs).armed = s.armed := rfl
@[simp] theorem State.withRx_expType (s : State) (bs : List Byte) : (s.withRx bs).expType = s.expType := rfl
@[simp] theorem State.withRx_expCmd (s : State) (bs : List Byte) : (s.withRx bs).expCmd = s.expCmd := rfl
@[simp] theorem State.withRx_verdict (s : State) (bs : List Byte) : (s.withRx bs).verdict = s.verdict := rfl
@[simp] theorem State.withRx_reason (s : State) (bs : List Byte) : (s.withRx bs).reason = s.reason := rfl
@[simp] theorem State.withRx_rspbuf (s : State) (bs : List Byte) : (s.withRx bs).rspbuf = s.rspbuf := rfl
@[simp] theorem State.withRx_rspvalid (s : State) (bs : List Byte) : (s.withRx bs).rspvalid = s.rspvalid := rfl
@[simp] theorem State.withRx_rx (s : State) (bs : List Byte) : (s.withRx bs).rx = bs := rfl
@[simp] theorem State.withRx_txHistory (s : State) (bs : List Byte) : (s.withRx bs).txHistory = s.txHistory := rfl
@[simp] theorem State.withRx_cache (s : State) (bs : List Byte) : (s.withRx bs).cache = s.cache := rfl
@[simp] theorem State.withRx_phase (s : State) (bs : List Byte) : (s.withRx bs).phase = s.phase := rfl
@[simp] theorem State.withRx_line (s : State) (bs : List Byte) : (s.withRx bs).line = s.line := rfl
@[simp] theorem State.withRx_returned (s : State) (bs : List Byte) : (s.withRx bs).returned = s.returned := rfl
@[simp] theorem State.withRx_program (s : State) (bs : List Byte) : (s.withRx bs).program = s.program := rfl
@[simp] theorem State.withRx_feed (s : State) (bs : List Byte) : (s.withRx bs).feed = s.feed := rfl
@[simp] theorem State.withRx_answers (s : State) (bs : List Byte) : (s.withRx bs).answers = s.answers := rfl
@[simp] theorem State.withRx_schedule (s : State) (bs : List Byte) : (s.withRx bs).schedule = s.schedule := rfl
@[simp] theorem State.withRx_trace (s : State) (bs : List Byte) : (s.withRx bs).trace = s.trace := rfl
@[simp] theorem State.withRx_freeCount (s : State) (bs : List Byte) : (s.withRx bs).freeCount = s.freeCount := rfl

/-! ### `startWindow` -/

@[simp] theorem State.startWindow_cfg (s : State) : s.startWindow.cfg = s.cfg := rfl
@[simp] theorem State.startWindow_txbuf (s : State) : s.startWindow.txbuf = s.txbuf := rfl
@[simp] theorem State.startWindow_txpend (s : State) : s.startWindow.txpend = s.txpend := rfl
@[simp] theorem State.startWindow_tgt (s : State) : s.startWindow.tgt = s.tgt := rfl
@[simp] theorem State.startWindow_rxbuf (s : State) : s.startWindow.rxbuf = s.rxbuf.set 0 headByte := rfl
@[simp] theorem State.startWindow_rxstate (s : State) : s.startWindow.rxstate = .collect := rfl
@[simp] theorem State.startWindow_rxcnt (s : State) : s.startWindow.rxcnt = 1 := rfl
@[simp] theorem State.startWindow_armed (s : State) : s.startWindow.armed = s.armed := rfl
@[simp] theorem State.startWindow_expType (s : State) : s.startWindow.expType = s.expType := rfl
@[simp] theorem State.startWindow_expCmd (s : State) : s.startWindow.expCmd = s.expCmd := rfl
@[simp] theorem State.startWindow_verdict (s : State) : s.startWindow.verdict = s.verdict := rfl
@[simp] theorem State.startWindow_reason (s : State) : s.startWindow.reason = s.reason := rfl
@[simp] theorem State.startWindow_rspbuf (s : State) : s.startWindow.rspbuf = s.rspbuf := rfl
@[simp] theorem State.startWindow_rspvalid (s : State) : s.startWindow.rspvalid = s.rspvalid := rfl
@[simp] theorem State.startWindow_rx (s : State) : s.startWindow.rx = s.rx := rfl
@[simp] theorem State.startWindow_txHistory (s : State) : s.startWindow.txHistory = s.txHistory := rfl
@[simp] theorem State.startWindow_cache (s : State) : s.startWindow.cache = s.cache := rfl
@[simp] theorem State.startWindow_phase (s : State) : s.startWindow.phase = s.phase := rfl
@[simp] theorem State.startWindow_line (s : State) : s.startWindow.line = s.line := rfl
@[simp] theorem State.startWindow_returned (s : State) : s.startWindow.returned = s.returned := rfl
@[simp] theorem State.startWindow_program (s : State) : s.startWindow.program = s.program := rfl
@[simp] theorem State.startWindow_feed (s : State) : s.startWindow.feed = s.feed := rfl
@[simp] theorem State.startWindow_answers (s : State) : s.startWindow.answers = s.answers := rfl
@[simp] theorem State.startWindow_schedule (s : State) : s.startWindow.schedule = s.schedule := rfl
@[simp] theorem State.startWindow_trace (s : State) : s.startWindow.trace = s.trace := rfl
@[simp] theorem State.startWindow_freeCount (s : State) : s.startWindow.freeCount = s.freeCount := rfl

/-! ### `storeByte` -/

@[simp] theorem State.storeByte_cfg (s : State) (b : Byte) (n : Fin 10) : (s.storeByte b n).cfg = s.cfg := rfl
@[simp] theorem State.storeByte_txbuf (s : State) (b : Byte) (n : Fin 10) : (s.storeByte b n).txbuf = s.txbuf := rfl
@[simp] theorem State.storeByte_txpend (s : State) (b : Byte) (n : Fin 10) : (s.storeByte b n).txpend = s.txpend := rfl
@[simp] theorem State.storeByte_tgt (s : State) (b : Byte) (n : Fin 10) : (s.storeByte b n).tgt = s.tgt := rfl
@[simp] theorem State.storeByte_rxbuf (s : State) (b : Byte) (n : Fin 10) : (s.storeByte b n).rxbuf = s.rxbuf.set s.rxcnt b := rfl
@[simp] theorem State.storeByte_rxstate (s : State) (b : Byte) (n : Fin 10) : (s.storeByte b n).rxstate = s.rxstate := rfl
@[simp] theorem State.storeByte_rxcnt (s : State) (b : Byte) (n : Fin 10) : (s.storeByte b n).rxcnt = n := rfl
@[simp] theorem State.storeByte_armed (s : State) (b : Byte) (n : Fin 10) : (s.storeByte b n).armed = s.armed := rfl
@[simp] theorem State.storeByte_expType (s : State) (b : Byte) (n : Fin 10) : (s.storeByte b n).expType = s.expType := rfl
@[simp] theorem State.storeByte_expCmd (s : State) (b : Byte) (n : Fin 10) : (s.storeByte b n).expCmd = s.expCmd := rfl
@[simp] theorem State.storeByte_verdict (s : State) (b : Byte) (n : Fin 10) : (s.storeByte b n).verdict = s.verdict := rfl
@[simp] theorem State.storeByte_reason (s : State) (b : Byte) (n : Fin 10) : (s.storeByte b n).reason = s.reason := rfl
@[simp] theorem State.storeByte_rspbuf (s : State) (b : Byte) (n : Fin 10) : (s.storeByte b n).rspbuf = s.rspbuf := rfl
@[simp] theorem State.storeByte_rspvalid (s : State) (b : Byte) (n : Fin 10) : (s.storeByte b n).rspvalid = s.rspvalid := rfl
@[simp] theorem State.storeByte_rx (s : State) (b : Byte) (n : Fin 10) : (s.storeByte b n).rx = s.rx := rfl
@[simp] theorem State.storeByte_txHistory (s : State) (b : Byte) (n : Fin 10) : (s.storeByte b n).txHistory = s.txHistory := rfl
@[simp] theorem State.storeByte_cache (s : State) (b : Byte) (n : Fin 10) : (s.storeByte b n).cache = s.cache := rfl
@[simp] theorem State.storeByte_phase (s : State) (b : Byte) (n : Fin 10) : (s.storeByte b n).phase = s.phase := rfl
@[simp] theorem State.storeByte_line (s : State) (b : Byte) (n : Fin 10) : (s.storeByte b n).line = s.line := rfl
@[simp] theorem State.storeByte_returned (s : State) (b : Byte) (n : Fin 10) : (s.storeByte b n).returned = s.returned := rfl
@[simp] theorem State.storeByte_program (s : State) (b : Byte) (n : Fin 10) : (s.storeByte b n).program = s.program := rfl
@[simp] theorem State.storeByte_feed (s : State) (b : Byte) (n : Fin 10) : (s.storeByte b n).feed = s.feed := rfl
@[simp] theorem State.storeByte_answers (s : State) (b : Byte) (n : Fin 10) : (s.storeByte b n).answers = s.answers := rfl
@[simp] theorem State.storeByte_schedule (s : State) (b : Byte) (n : Fin 10) : (s.storeByte b n).schedule = s.schedule := rfl
@[simp] theorem State.storeByte_trace (s : State) (b : Byte) (n : Fin 10) : (s.storeByte b n).trace = s.trace := rfl
@[simp] theorem State.storeByte_freeCount (s : State) (b : Byte) (n : Fin 10) : (s.storeByte b n).freeCount = s.freeCount := rfl

/-! ### `closeWindow` -/

@[simp] theorem State.closeWindow_cfg (s : State) (w : Window) : (s.closeWindow w).cfg = s.cfg := rfl
@[simp] theorem State.closeWindow_txbuf (s : State) (w : Window) : (s.closeWindow w).txbuf = s.txbuf := rfl
@[simp] theorem State.closeWindow_txpend (s : State) (w : Window) : (s.closeWindow w).txpend = s.txpend := rfl
@[simp] theorem State.closeWindow_tgt (s : State) (w : Window) : (s.closeWindow w).tgt = s.tgt := rfl
@[simp] theorem State.closeWindow_rxbuf (s : State) (w : Window) : (s.closeWindow w).rxbuf = w := rfl
@[simp] theorem State.closeWindow_rxstate (s : State) (w : Window) : (s.closeWindow w).rxstate = .hunt := rfl
@[simp] theorem State.closeWindow_rxcnt (s : State) (w : Window) : (s.closeWindow w).rxcnt = 0 := rfl
@[simp] theorem State.closeWindow_armed (s : State) (w : Window) : (s.closeWindow w).armed = s.armed := rfl
@[simp] theorem State.closeWindow_expType (s : State) (w : Window) : (s.closeWindow w).expType = s.expType := rfl
@[simp] theorem State.closeWindow_expCmd (s : State) (w : Window) : (s.closeWindow w).expCmd = s.expCmd := rfl
@[simp] theorem State.closeWindow_verdict (s : State) (w : Window) : (s.closeWindow w).verdict = s.verdict := rfl
@[simp] theorem State.closeWindow_reason (s : State) (w : Window) : (s.closeWindow w).reason = s.reason := rfl
@[simp] theorem State.closeWindow_rspbuf (s : State) (w : Window) : (s.closeWindow w).rspbuf = s.rspbuf := rfl
@[simp] theorem State.closeWindow_rspvalid (s : State) (w : Window) : (s.closeWindow w).rspvalid = s.rspvalid := rfl
@[simp] theorem State.closeWindow_rx (s : State) (w : Window) : (s.closeWindow w).rx = s.rx := rfl
@[simp] theorem State.closeWindow_txHistory (s : State) (w : Window) : (s.closeWindow w).txHistory = s.txHistory := rfl
@[simp] theorem State.closeWindow_cache (s : State) (w : Window) : (s.closeWindow w).cache = s.cache := rfl
@[simp] theorem State.closeWindow_phase (s : State) (w : Window) : (s.closeWindow w).phase = s.phase := rfl
@[simp] theorem State.closeWindow_line (s : State) (w : Window) : (s.closeWindow w).line = s.line := rfl
@[simp] theorem State.closeWindow_returned (s : State) (w : Window) : (s.closeWindow w).returned = s.returned := rfl
@[simp] theorem State.closeWindow_program (s : State) (w : Window) : (s.closeWindow w).program = s.program := rfl
@[simp] theorem State.closeWindow_feed (s : State) (w : Window) : (s.closeWindow w).feed = s.feed := rfl
@[simp] theorem State.closeWindow_answers (s : State) (w : Window) : (s.closeWindow w).answers = s.answers := rfl
@[simp] theorem State.closeWindow_schedule (s : State) (w : Window) : (s.closeWindow w).schedule = s.schedule := rfl
@[simp] theorem State.closeWindow_trace (s : State) (w : Window) : (s.closeWindow w).trace = s.trace := rfl
@[simp] theorem State.closeWindow_freeCount (s : State) (w : Window) : (s.closeWindow w).freeCount = s.freeCount := rfl

/-! ### `setVerdict` -/

@[simp] theorem State.setVerdict_cfg (s : State) (v : BitVec 5) (r : BitVec 3) : (s.setVerdict v r).cfg = s.cfg := rfl
@[simp] theorem State.setVerdict_txbuf (s : State) (v : BitVec 5) (r : BitVec 3) : (s.setVerdict v r).txbuf = s.txbuf := rfl
@[simp] theorem State.setVerdict_txpend (s : State) (v : BitVec 5) (r : BitVec 3) : (s.setVerdict v r).txpend = s.txpend := rfl
@[simp] theorem State.setVerdict_tgt (s : State) (v : BitVec 5) (r : BitVec 3) : (s.setVerdict v r).tgt = s.tgt := rfl
@[simp] theorem State.setVerdict_rxbuf (s : State) (v : BitVec 5) (r : BitVec 3) : (s.setVerdict v r).rxbuf = s.rxbuf := rfl
@[simp] theorem State.setVerdict_rxstate (s : State) (v : BitVec 5) (r : BitVec 3) : (s.setVerdict v r).rxstate = s.rxstate := rfl
@[simp] theorem State.setVerdict_rxcnt (s : State) (v : BitVec 5) (r : BitVec 3) : (s.setVerdict v r).rxcnt = s.rxcnt := rfl
@[simp] theorem State.setVerdict_armed (s : State) (v : BitVec 5) (r : BitVec 3) : (s.setVerdict v r).armed = s.armed := rfl
@[simp] theorem State.setVerdict_expType (s : State) (v : BitVec 5) (r : BitVec 3) : (s.setVerdict v r).expType = s.expType := rfl
@[simp] theorem State.setVerdict_expCmd (s : State) (v : BitVec 5) (r : BitVec 3) : (s.setVerdict v r).expCmd = s.expCmd := rfl
@[simp] theorem State.setVerdict_verdict (s : State) (v : BitVec 5) (r : BitVec 3) : (s.setVerdict v r).verdict = v := rfl
@[simp] theorem State.setVerdict_reason (s : State) (v : BitVec 5) (r : BitVec 3) : (s.setVerdict v r).reason = r := rfl
@[simp] theorem State.setVerdict_rspbuf (s : State) (v : BitVec 5) (r : BitVec 3) : (s.setVerdict v r).rspbuf = s.rspbuf := rfl
@[simp] theorem State.setVerdict_rspvalid (s : State) (v : BitVec 5) (r : BitVec 3) : (s.setVerdict v r).rspvalid = s.rspvalid := rfl
@[simp] theorem State.setVerdict_rx (s : State) (v : BitVec 5) (r : BitVec 3) : (s.setVerdict v r).rx = s.rx := rfl
@[simp] theorem State.setVerdict_txHistory (s : State) (v : BitVec 5) (r : BitVec 3) : (s.setVerdict v r).txHistory = s.txHistory := rfl
@[simp] theorem State.setVerdict_cache (s : State) (v : BitVec 5) (r : BitVec 3) : (s.setVerdict v r).cache = s.cache := rfl
@[simp] theorem State.setVerdict_phase (s : State) (v : BitVec 5) (r : BitVec 3) : (s.setVerdict v r).phase = s.phase := rfl
@[simp] theorem State.setVerdict_line (s : State) (v : BitVec 5) (r : BitVec 3) : (s.setVerdict v r).line = s.line := rfl
@[simp] theorem State.setVerdict_returned (s : State) (v : BitVec 5) (r : BitVec 3) : (s.setVerdict v r).returned = s.returned := rfl
@[simp] theorem State.setVerdict_program (s : State) (v : BitVec 5) (r : BitVec 3) : (s.setVerdict v r).program = s.program := rfl
@[simp] theorem State.setVerdict_feed (s : State) (v : BitVec 5) (r : BitVec 3) : (s.setVerdict v r).feed = s.feed := rfl
@[simp] theorem State.setVerdict_answers (s : State) (v : BitVec 5) (r : BitVec 3) : (s.setVerdict v r).answers = s.answers := rfl
@[simp] theorem State.setVerdict_schedule (s : State) (v : BitVec 5) (r : BitVec 3) : (s.setVerdict v r).schedule = s.schedule := rfl
@[simp] theorem State.setVerdict_trace (s : State) (v : BitVec 5) (r : BitVec 3) : (s.setVerdict v r).trace = s.trace := rfl
@[simp] theorem State.setVerdict_freeCount (s : State) (v : BitVec 5) (r : BitVec 3) : (s.setVerdict v r).freeCount = s.freeCount := rfl

/-! ### `holdResponse` -/

@[simp] theorem State.holdResponse_cfg (s : State) (w : Window) : (s.holdResponse w).cfg = s.cfg := rfl
@[simp] theorem State.holdResponse_txbuf (s : State) (w : Window) : (s.holdResponse w).txbuf = s.txbuf := rfl
@[simp] theorem State.holdResponse_txpend (s : State) (w : Window) : (s.holdResponse w).txpend = s.txpend := rfl
@[simp] theorem State.holdResponse_tgt (s : State) (w : Window) : (s.holdResponse w).tgt = s.tgt := rfl
@[simp] theorem State.holdResponse_rxbuf (s : State) (w : Window) : (s.holdResponse w).rxbuf = s.rxbuf := rfl
@[simp] theorem State.holdResponse_rxstate (s : State) (w : Window) : (s.holdResponse w).rxstate = s.rxstate := rfl
@[simp] theorem State.holdResponse_rxcnt (s : State) (w : Window) : (s.holdResponse w).rxcnt = s.rxcnt := rfl
@[simp] theorem State.holdResponse_armed (s : State) (w : Window) : (s.holdResponse w).armed = false := rfl
@[simp] theorem State.holdResponse_expType (s : State) (w : Window) : (s.holdResponse w).expType = s.expType := rfl
@[simp] theorem State.holdResponse_expCmd (s : State) (w : Window) : (s.holdResponse w).expCmd = s.expCmd := rfl
@[simp] theorem State.holdResponse_verdict (s : State) (w : Window) : (s.holdResponse w).verdict = s.verdict := rfl
@[simp] theorem State.holdResponse_reason (s : State) (w : Window) : (s.holdResponse w).reason = s.reason := rfl
@[simp] theorem State.holdResponse_rspbuf (s : State) (w : Window) : (s.holdResponse w).rspbuf = w := rfl
@[simp] theorem State.holdResponse_rspvalid (s : State) (w : Window) : (s.holdResponse w).rspvalid = true := rfl
@[simp] theorem State.holdResponse_rx (s : State) (w : Window) : (s.holdResponse w).rx = s.rx := rfl
@[simp] theorem State.holdResponse_txHistory (s : State) (w : Window) : (s.holdResponse w).txHistory = s.txHistory := rfl
@[simp] theorem State.holdResponse_cache (s : State) (w : Window) : (s.holdResponse w).cache = s.cache := rfl
@[simp] theorem State.holdResponse_phase (s : State) (w : Window) : (s.holdResponse w).phase = s.phase := rfl
@[simp] theorem State.holdResponse_line (s : State) (w : Window) : (s.holdResponse w).line = s.line := rfl
@[simp] theorem State.holdResponse_returned (s : State) (w : Window) : (s.holdResponse w).returned = s.returned := rfl
@[simp] theorem State.holdResponse_program (s : State) (w : Window) : (s.holdResponse w).program = s.program := rfl
@[simp] theorem State.holdResponse_feed (s : State) (w : Window) : (s.holdResponse w).feed = s.feed := rfl
@[simp] theorem State.holdResponse_answers (s : State) (w : Window) : (s.holdResponse w).answers = s.answers := rfl
@[simp] theorem State.holdResponse_schedule (s : State) (w : Window) : (s.holdResponse w).schedule = s.schedule := rfl
@[simp] theorem State.holdResponse_trace (s : State) (w : Window) : (s.holdResponse w).trace = s.trace := rfl
@[simp] theorem State.holdResponse_freeCount (s : State) (w : Window) : (s.holdResponse w).freeCount = s.freeCount := rfl

/-! ### `withCache` -/

@[simp] theorem State.withCache_cfg (s : State) (c : SensorState) : (s.withCache c).cfg = s.cfg := rfl
@[simp] theorem State.withCache_txbuf (s : State) (c : SensorState) : (s.withCache c).txbuf = s.txbuf := rfl
@[simp] theorem State.withCache_txpend (s : State) (c : SensorState) : (s.withCache c).txpend = s.txpend := rfl
@[simp] theorem State.withCache_tgt (s : State) (c : SensorState) : (s.withCache c).tgt = s.tgt := rfl
@[simp] theorem State.withCache_rxbuf (s : State) (c : SensorState) : (s.withCache c).rxbuf = s.rxbuf := rfl
@[simp] theorem State.withCache_rxstate (s : State) (c : SensorState) : (s.withCache c).rxstate = s.rxstate := rfl
@[simp] theorem State.withCache_rxcnt (s : State) (c : SensorState) : (s.withCache c).rxcnt = s.rxcnt := rfl
@[simp] theorem State.withCache_armed (s : State) (c : SensorState) : (s.withCache c).armed = s.armed := rfl
@[simp] theorem State.withCache_expType (s : State) (c : SensorState) : (s.withCache c).expType = s.expType := rfl
@[simp] theorem State.withCache_expCmd (s : State) (c : SensorState) : (s.withCache c).expCmd = s.expCmd := rfl
@[simp] theorem State.withCache_verdict (s : State) (c : SensorState) : (s.withCache c).verdict = s.verdict := rfl
@[simp] theorem State.withCache_reason (s : State) (c : SensorState) : (s.withCache c).reason = s.reason := rfl
@[simp] theorem State.withCache_rspbuf (s : State) (c : SensorState) : (s.withCache c).rspbuf = s.rspbuf := rfl
@[simp] theorem State.withCache_rspvalid (s : State) (c : SensorState) : (s.withCache c).rspvalid = s.rspvalid := rfl
@[simp] theorem State.withCache_rx (s : State) (c : SensorState) : (s.withCache c).rx = s.rx := rfl
@[simp] theorem State.withCache_txHistory (s : State) (c : SensorState) : (s.withCache c).txHistory = s.txHistory := rfl
@[simp] theorem State.withCache_cache (s : State) (c : SensorState) : (s.withCache c).cache = c := rfl
@[simp] theorem State.withCache_phase (s : State) (c : SensorState) : (s.withCache c).phase = s.phase := rfl
@[simp] theorem State.withCache_line (s : State) (c : SensorState) : (s.withCache c).line = s.line := rfl
@[simp] theorem State.withCache_returned (s : State) (c : SensorState) : (s.withCache c).returned = s.returned := rfl
@[simp] theorem State.withCache_program (s : State) (c : SensorState) : (s.withCache c).program = s.program := rfl
@[simp] theorem State.withCache_feed (s : State) (c : SensorState) : (s.withCache c).feed = s.feed := rfl
@[simp] theorem State.withCache_answers (s : State) (c : SensorState) : (s.withCache c).answers = s.answers := rfl
@[simp] theorem State.withCache_schedule (s : State) (c : SensorState) : (s.withCache c).schedule = s.schedule := rfl
@[simp] theorem State.withCache_trace (s : State) (c : SensorState) : (s.withCache c).trace = s.trace := rfl
@[simp] theorem State.withCache_freeCount (s : State) (c : SensorState) : (s.withCache c).freeCount = s.freeCount := rfl

/-! ### `withPhase` -/

@[simp] theorem State.withPhase_cfg (s : State) (p : Phase) : (s.withPhase p).cfg = s.cfg := rfl
@[simp] theorem State.withPhase_txbuf (s : State) (p : Phase) : (s.withPhase p).txbuf = s.txbuf := rfl
@[simp] theorem State.withPhase_txpend (s : State) (p : Phase) : (s.withPhase p).txpend = s.txpend := rfl
@[simp] theorem State.withPhase_tgt (s : State) (p : Phase) : (s.withPhase p).tgt = s.tgt := rfl
@[simp] theorem State.withPhase_rxbuf (s : State) (p : Phase) : (s.withPhase p).rxbuf = s.rxbuf := rfl
@[simp] theorem State.withPhase_rxstate (s : State) (p : Phase) : (s.withPhase p).rxstate = s.rxstate := rfl
@[simp] theorem State.withPhase_rxcnt (s : State) (p : Phase) : (s.withPhase p).rxcnt = s.rxcnt := rfl
@[simp] theorem State.withPhase_armed (s : State) (p : Phase) : (s.withPhase p).armed = s.armed := rfl
@[simp] theorem State.withPhase_expType (s : State) (p : Phase) : (s.withPhase p).expType = s.expType := rfl
@[simp] theorem State.withPhase_expCmd (s : State) (p : Phase) : (s.withPhase p).expCmd = s.expCmd := rfl
@[simp] theorem State.withPhase_verdict (s : State) (p : Phase) : (s.withPhase p).verdict = s.verdict := rfl
@[simp] theorem State.withPhase_reason (s : State) (p : Phase) : (s.withPhase p).reason = s.reason := rfl
@[simp] theorem State.withPhase_rspbuf (s : State) (p : Phase) : (s.withPhase p).rspbuf = s.rspbuf := rfl
@[simp] theorem State.withPhase_rspvalid (s : State) (p : Phase) : (s.withPhase p).rspvalid = s.rspvalid := rfl
@[simp] theorem State.withPhase_rx (s : State) (p : Phase) : (s.withPhase p).rx = s.rx := rfl
@[simp] theorem State.withPhase_txHistory (s : State) (p : Phase) : (s.withPhase p).txHistory = s.txHistory := rfl
@[simp] theorem State.withPhase_cache (s : State) (p : Phase) : (s.withPhase p).cache = s.cache := rfl
@[simp] theorem State.withPhase_phase (s : State) (p : Phase) : (s.withPhase p).phase = p := rfl
@[simp] theorem State.withPhase_line (s : State) (p : Phase) : (s.withPhase p).line = s.line := rfl
@[simp] theorem State.withPhase_returned (s : State) (p : Phase) : (s.withPhase p).returned = s.returned := rfl
@[simp] theorem State.withPhase_program (s : State) (p : Phase) : (s.withPhase p).program = s.program := rfl
@[simp] theorem State.withPhase_feed (s : State) (p : Phase) : (s.withPhase p).feed = s.feed := rfl
@[simp] theorem State.withPhase_answers (s : State) (p : Phase) : (s.withPhase p).answers = s.answers := rfl
@[simp] theorem State.withPhase_schedule (s : State) (p : Phase) : (s.withPhase p).schedule = s.schedule := rfl
@[simp] theorem State.withPhase_trace (s : State) (p : Phase) : (s.withPhase p).trace = s.trace := rfl
@[simp] theorem State.withPhase_freeCount (s : State) (p : Phase) : (s.withPhase p).freeCount = s.freeCount := rfl

/-! ### `withLine` -/

@[simp] theorem State.withLine_cfg (s : State) (l : LineRequest) : (s.withLine l).cfg = s.cfg := rfl
@[simp] theorem State.withLine_txbuf (s : State) (l : LineRequest) : (s.withLine l).txbuf = s.txbuf := rfl
@[simp] theorem State.withLine_txpend (s : State) (l : LineRequest) : (s.withLine l).txpend = s.txpend := rfl
@[simp] theorem State.withLine_tgt (s : State) (l : LineRequest) : (s.withLine l).tgt = s.tgt := rfl
@[simp] theorem State.withLine_rxbuf (s : State) (l : LineRequest) : (s.withLine l).rxbuf = s.rxbuf := rfl
@[simp] theorem State.withLine_rxstate (s : State) (l : LineRequest) : (s.withLine l).rxstate = s.rxstate := rfl
@[simp] theorem State.withLine_rxcnt (s : State) (l : LineRequest) : (s.withLine l).rxcnt = s.rxcnt := rfl
@[simp] theorem State.withLine_armed (s : State) (l : LineRequest) : (s.withLine l).armed = s.armed := rfl
@[simp] theorem State.withLine_expType (s : State) (l : LineRequest) : (s.withLine l).expType = s.expType := rfl
@[simp] theorem State.withLine_expCmd (s : State) (l : LineRequest) : (s.withLine l).expCmd = s.expCmd := rfl
@[simp] theorem State.withLine_verdict (s : State) (l : LineRequest) : (s.withLine l).verdict = s.verdict := rfl
@[simp] theorem State.withLine_reason (s : State) (l : LineRequest) : (s.withLine l).reason = s.reason := rfl
@[simp] theorem State.withLine_rspbuf (s : State) (l : LineRequest) : (s.withLine l).rspbuf = s.rspbuf := rfl
@[simp] theorem State.withLine_rspvalid (s : State) (l : LineRequest) : (s.withLine l).rspvalid = s.rspvalid := rfl
@[simp] theorem State.withLine_rx (s : State) (l : LineRequest) : (s.withLine l).rx = s.rx := rfl
@[simp] theorem State.withLine_txHistory (s : State) (l : LineRequest) : (s.withLine l).txHistory = s.txHistory := rfl
@[simp] theorem State.withLine_cache (s : State) (l : LineRequest) : (s.withLine l).cache = s.cache := rfl
@[simp] theorem State.withLine_phase (s : State) (l : LineRequest) : (s.withLine l).phase = s.phase := rfl
@[simp] theorem State.withLine_line (s : State) (l : LineRequest) : (s.withLine l).line = l := rfl
@[simp] theorem State.withLine_returned (s : State) (l : LineRequest) : (s.withLine l).returned = s.returned := rfl
@[simp] theorem State.withLine_program (s : State) (l : LineRequest) : (s.withLine l).program = s.program := rfl
@[simp] theorem State.withLine_feed (s : State) (l : LineRequest) : (s.withLine l).feed = s.feed := rfl
@[simp] theorem State.withLine_answers (s : State) (l : LineRequest) : (s.withLine l).answers = s.answers := rfl
@[simp] theorem State.withLine_schedule (s : State) (l : LineRequest) : (s.withLine l).schedule = s.schedule := rfl
@[simp] theorem State.withLine_trace (s : State) (l : LineRequest) : (s.withLine l).trace = s.trace := rfl
@[simp] theorem State.withLine_freeCount (s : State) (l : LineRequest) : (s.withLine l).freeCount = s.freeCount := rfl

/-! ### `deliver` -/

@[simp] theorem State.deliver_cfg (s : State) (v : Returned) : (s.deliver v).cfg = s.cfg := rfl
@[simp] theorem State.deliver_txbuf (s : State) (v : Returned) : (s.deliver v).txbuf = s.txbuf := rfl
@[simp] theorem State.deliver_txpend (s : State) (v : Returned) : (s.deliver v).txpend = s.txpend := rfl
@[simp] theorem State.deliver_tgt (s : State) (v : Returned) : (s.deliver v).tgt = s.tgt := rfl
@[simp] theorem State.deliver_rxbuf (s : State) (v : Returned) : (s.deliver v).rxbuf = s.rxbuf := rfl
@[simp] theorem State.deliver_rxstate (s : State) (v : Returned) : (s.deliver v).rxstate = s.rxstate := rfl
@[simp] theorem State.deliver_rxcnt (s : State) (v : Returned) : (s.deliver v).rxcnt = s.rxcnt := rfl
@[simp] theorem State.deliver_armed (s : State) (v : Returned) : (s.deliver v).armed = s.armed := rfl
@[simp] theorem State.deliver_expType (s : State) (v : Returned) : (s.deliver v).expType = s.expType := rfl
@[simp] theorem State.deliver_expCmd (s : State) (v : Returned) : (s.deliver v).expCmd = s.expCmd := rfl
@[simp] theorem State.deliver_verdict (s : State) (v : Returned) : (s.deliver v).verdict = s.verdict := rfl
@[simp] theorem State.deliver_reason (s : State) (v : Returned) : (s.deliver v).reason = s.reason := rfl
@[simp] theorem State.deliver_rspbuf (s : State) (v : Returned) : (s.deliver v).rspbuf = s.rspbuf := rfl
@[simp] theorem State.deliver_rspvalid (s : State) (v : Returned) : (s.deliver v).rspvalid = s.rspvalid := rfl
@[simp] theorem State.deliver_rx (s : State) (v : Returned) : (s.deliver v).rx = s.rx := rfl
@[simp] theorem State.deliver_txHistory (s : State) (v : Returned) : (s.deliver v).txHistory = s.txHistory := rfl
@[simp] theorem State.deliver_cache (s : State) (v : Returned) : (s.deliver v).cache = s.cache := rfl
@[simp] theorem State.deliver_phase (s : State) (v : Returned) : (s.deliver v).phase = s.phase := rfl
@[simp] theorem State.deliver_line (s : State) (v : Returned) : (s.deliver v).line = s.line := rfl
@[simp] theorem State.deliver_returned (s : State) (v : Returned) : (s.deliver v).returned = s.returned ++ [v] := rfl
@[simp] theorem State.deliver_program (s : State) (v : Returned) : (s.deliver v).program = s.program := rfl
@[simp] theorem State.deliver_feed (s : State) (v : Returned) : (s.deliver v).feed = s.feed := rfl
@[simp] theorem State.deliver_answers (s : State) (v : Returned) : (s.deliver v).answers = s.answers := rfl
@[simp] theorem State.deliver_schedule (s : State) (v : Returned) : (s.deliver v).schedule = s.schedule := rfl
@[simp] theorem State.deliver_trace (s : State) (v : Returned) : (s.deliver v).trace = s.trace := rfl
@[simp] theorem State.deliver_freeCount (s : State) (v : Returned) : (s.deliver v).freeCount = s.freeCount := rfl

/-! ### `withProgram` -/

@[simp] theorem State.withProgram_cfg (s : State) (p : List HostOp) : (s.withProgram p).cfg = s.cfg := rfl
@[simp] theorem State.withProgram_txbuf (s : State) (p : List HostOp) : (s.withProgram p).txbuf = s.txbuf := rfl
@[simp] theorem State.withProgram_txpend (s : State) (p : List HostOp) : (s.withProgram p).txpend = s.txpend := rfl
@[simp] theorem State.withProgram_tgt (s : State) (p : List HostOp) : (s.withProgram p).tgt = s.tgt := rfl
@[simp] theorem State.withProgram_rxbuf (s : State) (p : List HostOp) : (s.withProgram p).rxbuf = s.rxbuf := rfl
@[simp] theorem State.withProgram_rxstate (s : State) (p : List HostOp) : (s.withProgram p).rxstate = s.rxstate := rfl
@[simp] theorem State.withProgram_rxcnt (s : State) (p : List HostOp) : (s.withProgram p).rxcnt = s.rxcnt := rfl
@[simp] theorem State.withProgram_armed (s : State) (p : List HostOp) : (s.withProgram p).armed = s.armed := rfl
@[simp] theorem State.withProgram_expType (s : State) (p : List HostOp) : (s.withProgram p).expType = s.expType := rfl
@[simp] theorem State.withProgram_expCmd (s : State) (p : List HostOp) : (s.withProgram p).expCmd = s.expCmd := rfl
@[simp] theorem State.withProgram_verdict (s : State) (p : List HostOp) : (s.withProgram p).verdict = s.verdict := rfl
@[simp] theorem State.withProgram_reason (s : State) (p : List HostOp) : (s.withProgram p).reason = s.reason := rfl
@[simp] theorem State.withProgram_rspbuf (s : State) (p : List HostOp) : (s.withProgram p).rspbuf = s.rspbuf := rfl
@[simp] theorem State.withProgram_rspvalid (s : State) (p : List HostOp) : (s.withProgram p).rspvalid = s.rspvalid := rfl
@[simp] theorem State.withProgram_rx (s : State) (p : List HostOp) : (s.withProgram p).rx = s.rx := rfl
@[simp] theorem State.withProgram_txHistory (s : State) (p : List HostOp) : (s.withProgram p).txHistory = s.txHistory := rfl
@[simp] theorem State.withProgram_cache (s : State) (p : List HostOp) : (s.withProgram p).cache = s.cache := rfl
@[simp] theorem State.withProgram_phase (s : State) (p : List HostOp) : (s.withProgram p).phase = s.phase := rfl
@[simp] theorem State.withProgram_line (s : State) (p : List HostOp) : (s.withProgram p).line = s.line := rfl
@[simp] theorem State.withProgram_returned (s : State) (p : List HostOp) : (s.withProgram p).returned = s.returned := rfl
@[simp] theorem State.withProgram_program (s : State) (p : List HostOp) : (s.withProgram p).program = p := rfl
@[simp] theorem State.withProgram_feed (s : State) (p : List HostOp) : (s.withProgram p).feed = s.feed := rfl
@[simp] theorem State.withProgram_answers (s : State) (p : List HostOp) : (s.withProgram p).answers = s.answers := rfl
@[simp] theorem State.withProgram_schedule (s : State) (p : List HostOp) : (s.withProgram p).schedule = s.schedule := rfl
@[simp] theorem State.withProgram_trace (s : State) (p : List HostOp) : (s.withProgram p).trace = s.trace := rfl
@[simp] theorem State.withProgram_freeCount (s : State) (p : List HostOp) : (s.withProgram p).freeCount = s.freeCount := rfl

/-! ### `withFeed` -/

@[simp] theorem State.withFeed_cfg (s : State) (bs : List Byte) : (s.withFeed bs).cfg = s.cfg := rfl
@[simp] theorem State.withFeed_txbuf (s : State) (bs : List Byte) : (s.withFeed bs).txbuf = s.txbuf := rfl
@[simp] theorem State.withFeed_txpend (s : State) (bs : List Byte) : (s.withFeed bs).txpend = s.txpend := rfl
@[simp] theorem State.withFeed_tgt (s : State) (bs : List Byte) : (s.withFeed bs).tgt = s.tgt := rfl
@[simp] theorem State.withFeed_rxbuf (s : State) (bs : List Byte) : (s.withFeed bs).rxbuf = s.rxbuf := rfl
@[simp] theorem State.withFeed_rxstate (s : State) (bs : List Byte) : (s.withFeed bs).rxstate = s.rxstate := rfl
@[simp] theorem State.withFeed_rxcnt (s : State) (bs : List Byte) : (s.withFeed bs).rxcnt = s.rxcnt := rfl
@[simp] theorem State.withFeed_armed (s : State) (bs : List Byte) : (s.withFeed bs).armed = s.armed := rfl
@[simp] theorem State.withFeed_expType (s : State) (bs : List Byte) : (s.withFeed bs).expType = s.expType := rfl
@[simp] theorem State.withFeed_expCmd (s : State) (bs : List Byte) : (s.withFeed bs).expCmd = s.expCmd := rfl
@[simp] theorem State.withFeed_verdict (s : State) (bs : List Byte) : (s.withFeed bs).verdict = s.verdict := rfl
@[simp] theorem State.withFeed_reason (s : State) (bs : List Byte) : (s.withFeed bs).reason = s.reason := rfl
@[simp] theorem State.withFeed_rspbuf (s : State) (bs : List Byte) : (s.withFeed bs).rspbuf = s.rspbuf := rfl
@[simp] theorem State.withFeed_rspvalid (s : State) (bs : List Byte) : (s.withFeed bs).rspvalid = s.rspvalid := rfl
@[simp] theorem State.withFeed_rx (s : State) (bs : List Byte) : (s.withFeed bs).rx = s.rx := rfl
@[simp] theorem State.withFeed_txHistory (s : State) (bs : List Byte) : (s.withFeed bs).txHistory = s.txHistory := rfl
@[simp] theorem State.withFeed_cache (s : State) (bs : List Byte) : (s.withFeed bs).cache = s.cache := rfl
@[simp] theorem State.withFeed_phase (s : State) (bs : List Byte) : (s.withFeed bs).phase = s.phase := rfl
@[simp] theorem State.withFeed_line (s : State) (bs : List Byte) : (s.withFeed bs).line = s.line := rfl
@[simp] theorem State.withFeed_returned (s : State) (bs : List Byte) : (s.withFeed bs).returned = s.returned := rfl
@[simp] theorem State.withFeed_program (s : State) (bs : List Byte) : (s.withFeed bs).program = s.program := rfl
@[simp] theorem State.withFeed_feed (s : State) (bs : List Byte) : (s.withFeed bs).feed = bs := rfl
@[simp] theorem State.withFeed_answers (s : State) (bs : List Byte) : (s.withFeed bs).answers = s.answers := rfl
@[simp] theorem State.withFeed_schedule (s : State) (bs : List Byte) : (s.withFeed bs).schedule = s.schedule := rfl
@[simp] theorem State.withFeed_trace (s : State) (bs : List Byte) : (s.withFeed bs).trace = s.trace := rfl
@[simp] theorem State.withFeed_freeCount (s : State) (bs : List Byte) : (s.withFeed bs).freeCount = s.freeCount := rfl

/-! ### `withAnswers` -/

@[simp] theorem State.withAnswers_cfg (s : State) (as : List WriteAnswer) : (s.withAnswers as).cfg = s.cfg := rfl
@[simp] theorem State.withAnswers_txbuf (s : State) (as : List WriteAnswer) : (s.withAnswers as).txbuf = s.txbuf := rfl
@[simp] theorem State.withAnswers_txpend (s : State) (as : List WriteAnswer) : (s.withAnswers as).txpend = s.txpend := rfl
@[simp] theorem State.withAnswers_tgt (s : State) (as : List WriteAnswer) : (s.withAnswers as).tgt = s.tgt := rfl
@[simp] theorem State.withAnswers_rxbuf (s : State) (as : List WriteAnswer) : (s.withAnswers as).rxbuf = s.rxbuf := rfl
@[simp] theorem State.withAnswers_rxstate (s : State) (as : List WriteAnswer) : (s.withAnswers as).rxstate = s.rxstate := rfl
@[simp] theorem State.withAnswers_rxcnt (s : State) (as : List WriteAnswer) : (s.withAnswers as).rxcnt = s.rxcnt := rfl
@[simp] theorem State.withAnswers_armed (s : State) (as : List WriteAnswer) : (s.withAnswers as).armed = s.armed := rfl
@[simp] theorem State.withAnswers_expType (s : State) (as : List WriteAnswer) : (s.withAnswers as).expType = s.expType := rfl
@[simp] theorem State.withAnswers_expCmd (s : State) (as : List WriteAnswer) : (s.withAnswers as).expCmd = s.expCmd := rfl
@[simp] theorem State.withAnswers_verdict (s : State) (as : List WriteAnswer) : (s.withAnswers as).verdict = s.verdict := rfl
@[simp] theorem State.withAnswers_reason (s : State) (as : List WriteAnswer) : (s.withAnswers as).reason = s.reason := rfl
@[simp] theorem State.withAnswers_rspbuf (s : State) (as : List WriteAnswer) : (s.withAnswers as).rspbuf = s.rspbuf := rfl
@[simp] theorem State.withAnswers_rspvalid (s : State) (as : List WriteAnswer) : (s.withAnswers as).rspvalid = s.rspvalid := rfl
@[simp] theorem State.withAnswers_rx (s : State) (as : List WriteAnswer) : (s.withAnswers as).rx = s.rx := rfl
@[simp] theorem State.withAnswers_txHistory (s : State) (as : List WriteAnswer) : (s.withAnswers as).txHistory = s.txHistory := rfl
@[simp] theorem State.withAnswers_cache (s : State) (as : List WriteAnswer) : (s.withAnswers as).cache = s.cache := rfl
@[simp] theorem State.withAnswers_phase (s : State) (as : List WriteAnswer) : (s.withAnswers as).phase = s.phase := rfl
@[simp] theorem State.withAnswers_line (s : State) (as : List WriteAnswer) : (s.withAnswers as).line = s.line := rfl
@[simp] theorem State.withAnswers_returned (s : State) (as : List WriteAnswer) : (s.withAnswers as).returned = s.returned := rfl
@[simp] theorem State.withAnswers_program (s : State) (as : List WriteAnswer) : (s.withAnswers as).program = s.program := rfl
@[simp] theorem State.withAnswers_feed (s : State) (as : List WriteAnswer) : (s.withAnswers as).feed = s.feed := rfl
@[simp] theorem State.withAnswers_answers (s : State) (as : List WriteAnswer) : (s.withAnswers as).answers = as := rfl
@[simp] theorem State.withAnswers_schedule (s : State) (as : List WriteAnswer) : (s.withAnswers as).schedule = s.schedule := rfl
@[simp] theorem State.withAnswers_trace (s : State) (as : List WriteAnswer) : (s.withAnswers as).trace = s.trace := rfl
@[simp] theorem State.withAnswers_freeCount (s : State) (as : List WriteAnswer) : (s.withAnswers as).freeCount = s.freeCount := rfl

/-! ### `withSchedule` -/

@[simp] theorem State.withSchedule_cfg (s : State) (ts : List Turn) : (s.withSchedule ts).cfg = s.cfg := rfl
@[simp] theorem State.withSchedule_txbuf (s : State) (ts : List Turn) : (s.withSchedule ts).txbuf = s.txbuf := rfl
@[simp] theorem State.withSchedule_txpend (s : State) (ts : List Turn) : (s.withSchedule ts).txpend = s.txpend := rfl
@[simp] theorem State.withSchedule_tgt (s : State) (ts : List Turn) : (s.withSchedule ts).tgt = s.tgt := rfl
@[simp] theorem State.withSchedule_rxbuf (s : State) (ts : List Turn) : (s.withSchedule ts).rxbuf = s.rxbuf := rfl
@[simp] theorem State.withSchedule_rxstate (s : State) (ts : List Turn) : (s.withSchedule ts).rxstate = s.rxstate := rfl
@[simp] theorem State.withSchedule_rxcnt (s : State) (ts : List Turn) : (s.withSchedule ts).rxcnt = s.rxcnt := rfl
@[simp] theorem State.withSchedule_armed (s : State) (ts : List Turn) : (s.withSchedule ts).armed = s.armed := rfl
@[simp] theorem State.withSchedule_expType (s : State) (ts : List Turn) : (s.withSchedule ts).expType = s.expType := rfl
@[simp] theorem State.withSchedule_expCmd (s : State) (ts : List Turn) : (s.withSchedule ts).expCmd = s.expCmd := rfl
@[simp] theorem State.withSchedule_verdict (s : State) (ts : List Turn) : (s.withSchedule ts).verdict = s.verdict := rfl
@[simp] theorem State.withSchedule_reason (s : State) (ts : List Turn) : (s.withSchedule ts).reason = s.reason := rfl
@[simp] theorem State.withSchedule_rspbuf (s : State) (ts : List Turn) : (s.withSchedule ts).rspbuf = s.rspbuf := rfl
@[simp] theorem State.withSchedule_rspvalid (s : State) (ts : List Turn) : (s.withSchedule ts).rspvalid = s.rspvalid := rfl
@[simp] theorem State.withSchedule_rx (s : State) (ts : List Turn) : (s.withSchedule ts).rx = s.rx := rfl
@[simp] theorem State.withSchedule_txHistory (s : State) (ts : List Turn) : (s.withSchedule ts).txHistory = s.txHistory := rfl
@[simp] theorem State.withSchedule_cache (s : State) (ts : List Turn) : (s.withSchedule ts).cache = s.cache := rfl
@[simp] theorem State.withSchedule_phase (s : State) (ts : List Turn) : (s.withSchedule ts).phase = s.phase := rfl
@[simp] theorem State.withSchedule_line (s : State) (ts : List Turn) : (s.withSchedule ts).line = s.line := rfl
@[simp] theorem State.withSchedule_returned (s : State) (ts : List Turn) : (s.withSchedule ts).returned = s.returned := rfl
@[simp] theorem State.withSchedule_program (s : State) (ts : List Turn) : (s.withSchedule ts).program = s.program := rfl
@[simp] theorem State.withSchedule_feed (s : State) (ts : List Turn) : (s.withSchedule ts).feed = s.feed := rfl
@[simp] theorem State.withSchedule_answers (s : State) (ts : List Turn) : (s.withSchedule ts).answers = s.answers := rfl
@[simp] theorem State.withSchedule_schedule (s : State) (ts : List Turn) : (s.withSchedule ts).schedule = ts := rfl
@[simp] theorem State.withSchedule_trace (s : State) (ts : List Turn) : (s.withSchedule ts).trace = s.trace := rfl
@[simp] theorem State.withSchedule_freeCount (s : State) (ts : List Turn) : (s.withSchedule ts).freeCount = s.freeCount := rfl

/-! ### `useFree` -/

@[simp] theorem State.useFree_cfg (s : State) : s.useFree.cfg = s.cfg := rfl
@[simp] theorem State.useFree_txbuf (s : State) : s.useFree.txbuf = s.txbuf := rfl
@[simp] theorem State.useFree_txpend (s : State) : s.useFree.txpend = s.txpend := rfl
@[simp] theorem State.useFree_tgt (s : State) : s.useFree.tgt = s.tgt := rfl
@[simp] theorem State.useFree_rxbuf (s : State) : s.useFree.rxbuf = s.rxbuf := rfl
@[simp] theorem State.useFree_rxstate (s : State) : s.useFree.rxstate = s.rxstate := rfl
@[simp] theorem State.useFree_rxcnt (s : State) : s.useFree.rxcnt = s.rxcnt := rfl
@[simp] theorem State.useFree_armed (s : State) : s.useFree.armed = s.armed := rfl
@[simp] theorem State.useFree_expType (s : State) : s.useFree.expType = s.expType := rfl
@[simp] theorem State.useFree_expCmd (s : State) : s.useFree.expCmd = s.expCmd := rfl
@[simp] theorem State.useFree_verdict (s : State) : s.useFree.verdict = s.verdict := rfl
@[simp] theorem State.useFree_reason (s : State) : s.useFree.reason = s.reason := rfl
@[simp] theorem State.useFree_rspbuf (s : State) : s.useFree.rspbuf = s.rspbuf := rfl
@[simp] theorem State.useFree_rspvalid (s : State) : s.useFree.rspvalid = s.rspvalid := rfl
@[simp] theorem State.useFree_rx (s : State) : s.useFree.rx = s.rx := rfl
@[simp] theorem State.useFree_txHistory (s : State) : s.useFree.txHistory = s.txHistory := rfl
@[simp] theorem State.useFree_cache (s : State) : s.useFree.cache = s.cache := rfl
@[simp] theorem State.useFree_phase (s : State) : s.useFree.phase = s.phase := rfl
@[simp] theorem State.useFree_line (s : State) : s.useFree.line = s.line := rfl
@[simp] theorem State.useFree_returned (s : State) : s.useFree.returned = s.returned := rfl
@[simp] theorem State.useFree_program (s : State) : s.useFree.program = s.program := rfl
@[simp] theorem State.useFree_feed (s : State) : s.useFree.feed = s.feed := rfl
@[simp] theorem State.useFree_answers (s : State) : s.useFree.answers = s.answers := rfl
@[simp] theorem State.useFree_schedule (s : State) : s.useFree.schedule = s.schedule := rfl
@[simp] theorem State.useFree_trace (s : State) : s.useFree.trace = s.trace := rfl
@[simp] theorem State.useFree_freeCount (s : State) : s.useFree.freeCount = s.freeCount + 1 := rfl

end Sys2Proof.Machine
end

