-- ==== Sys2Proof/Laws/Ops.lean ====
section
/-!
SUPPORT. What each shared operation can do, said once (41_command_encoder.md to 43_response_decoder.md).
-/

namespace Sys2Proof.Machine

@[simp] theorem thenNext_next (s : State) (f : State → State) :
    thenNext (.next s) f = .next (f s) := rfl

@[simp] theorem thenNext_refused (r : Refusal) (f : State → State) :
    thenNext (.refused r) f = .refused r := rfl

/-- An outcome changed afterwards is a next state only if it was one before. -/
theorem thenNext_eq_next {o : Result} {f : State → State} {t : State} (h : thenNext o f = .next t) :
    ∃ u, o = .next u ∧ t = f u := by
  cases o with
  | next u => exact ⟨u, rfl, by simpa using h.symm⟩
  | fault r => cases r
  | refused r => cases h

/-- An outcome changed afterwards is a refusal only if it was that refusal before. -/
theorem thenNext_eq_refused {o : Result} {f : State → State} {r : Refusal}
    (h : thenNext o f = .refused r) : o = .refused r := by
  cases o with
  | next u => cases h
  | fault e => cases e
  | refused q => simpa using h

/-- All that `ENCODE` can do (41_command_encoder.md R100). -/
theorem encodeOp_cases (c : Byte) (args : List Byte) (s : State) :
    (12 < args.length ∧ encodeOp c args s = .refused .tooManyArgs) ∨
    (args.length ≤ 12 ∧ (s.txpend = true ∨ s.armed = true) ∧
      encodeOp c args s = .refused .overlappingRequest) ∨
    (args.length ≤ 12 ∧ s.txpend = false ∧ s.armed = false ∧
      encodeOp c args s = .next (s.loadFrame (buildFrame s.cfg.layout s.tgt c args))) := by
  unfold encodeOp
  by_cases hn : 12 < args.length
  · exact .inl ⟨hn, if_pos hn⟩
  · rw [if_neg hn]
    by_cases hb : s.txpend = true ∨ s.armed = true
    · exact .inr (.inl ⟨by omega, hb, if_pos hb⟩)
    · rw [if_neg hb]
      simp only [not_or, Bool.not_eq_true] at hb
      exact .inr (.inr ⟨by omega, hb.1, hb.2, rfl⟩)

/-- `ENCODE` completes with nothing pending and nothing awaited (41_command_encoder.md R100). -/
theorem encodeOp_ready {c : Byte} {args : List Byte} {s : State} (hn : args.length ≤ 12)
    (hp : s.txpend = false) (ha : s.armed = false) :
    encodeOp c args s = .next (s.loadFrame (buildFrame s.cfg.layout s.tgt c args)) := by
  unfold encodeOp
  rw [if_neg (by omega), if_neg (by simp [hp, ha])]

/-- `ENCODE` during a request is an overlapping request (60_exceptions.md R224). -/
theorem encodeOp_busy {c : Byte} {args : List Byte} {s : State} (hn : args.length ≤ 12)
    (hb : s.txpend = true ∨ s.armed = true) :
    encodeOp c args s = .refused .overlappingRequest := by
  unfold encodeOp
  rw [if_neg (by omega), if_pos hb]

/-- All that `TXWRITE` can do (41_command_encoder.md R112). -/
theorem txWriteOp_cases (a : WriteAnswer) (s : State) :
    (s.txpend = false ∧ txWriteOp a s = .refused .nothingToSend) ∨
    (s.txpend = true ∧ a = .ok ∧ txWriteOp a s = .next (s.frameSent.emit (.tx s.txbuf))) ∨
    (s.txpend = true ∧ ∃ n, a = .error n ∧ txWriteOp a s = .next (s.frameFailed n)) ∨
    (s.txpend = true ∧ ∃ n, a = .short n ∧ txWriteOp a s = .refused .shortWrite) := by
  unfold txWriteOp
  by_cases hp : s.txpend = false
  · exact .inl ⟨hp, if_pos hp⟩
  · rw [if_neg hp]
    rw [Bool.not_eq_false] at hp
    cases a with
    | ok => exact .inr (.inl ⟨hp, rfl, rfl⟩)
    | error n => exact .inr (.inr (.inl ⟨hp, n, rfl, rfl⟩))
    | short n => exact .inr (.inr (.inr ⟨hp, n, rfl, rfl⟩))

/-- All that `ARM` can do (42_resynchronizer.md R130). -/
theorem armOp_cases (ty c : Byte) (s : State) :
    (ty ≠ typeMeas ∧ ty ≠ typeAck ∧ armOp ty c s = .refused .badExpectation) ∨
    ((ty = typeMeas ∨ ty = typeAck) ∧ (s.armed = true ∨ s.txpend = true) ∧
      armOp ty c s = .refused .overlappingRequest) ∨
    ((ty = typeMeas ∨ ty = typeAck) ∧ s.armed = false ∧ s.txpend = false ∧
      armOp ty c s = .next (s.latchExpectation ty c)) := by
  unfold armOp
  by_cases ht : ty ≠ typeMeas ∧ ty ≠ typeAck
  · exact .inl ⟨ht.1, ht.2, if_pos ht⟩
  · rw [if_neg ht]
    have ht' : ty = typeMeas ∨ ty = typeAck := by
      by_cases h : ty = typeMeas
      · exact .inl h
      · exact .inr (by by_contra h'; exact ht ⟨h, h'⟩)
    by_cases hb : s.armed = true ∨ s.txpend = true
    · exact .inr (.inl ⟨ht', hb, if_pos hb⟩)
    · rw [if_neg hb]
      simp only [not_or, Bool.not_eq_true] at hb
      exact .inr (.inr ⟨ht', hb.1, hb.2, rfl⟩)

/-- What `complete(C)` does when the verdict accepts (43_response_decoder.md R150, R152). -/
theorem completeWindow_accept {w : Window} {s : State}
    (h : verdictOf s.cfg w s.expType s.expCmd = acceptVerdict) :
    completeWindow w s = ((s.setVerdict acceptVerdict (reasonOf acceptVerdict)).holdResponse w).emit
      (.accept w) := by
  simp only [completeWindow, h, acceptWindow, if_true]

/-- What `complete(C)` does when the verdict does not accept (43_response_decoder.md R150, R153). -/
theorem completeWindow_discard {w : Window} {s : State}
    (h : verdictOf s.cfg w s.expType s.expCmd ≠ acceptVerdict) :
    completeWindow w s =
      (s.setVerdict (verdictOf s.cfg w s.expType s.expCmd)
        (reasonOf (verdictOf s.cfg w s.expType s.expCmd))).emit
        (.discard w (reasonOf (verdictOf s.cfg w s.expType s.expCmd))) := by
  simp only [completeWindow, if_neg h, discardWindow]

/-- The tenth byte's transition while armed (42_resynchronizer.md R133). -/
theorem receiveWindow_armed {w : Window} {s : State} (h : s.armed = true) :
    receiveWindow w s = .next (completeWindow w (s.closeWindow w)) := by
  simp [receiveWindow, h]

/-- While `ARMED = 0` there is no step (42_resynchronizer.md R137). -/
theorem receiveWindow_unarmed {w : Window} {s : State} (h : s.armed = false) :
    receiveWindow w s = .next s := by
  simp [receiveWindow, h]

@[simp] theorem headClause_iff (w : Window) : headClause w = true ↔ w.b0 = headByte :=
  decide_eq_true_iff

@[simp] theorem tailClause_iff (w : Window) : tailClause w = true ↔ w.b9 = tailByte :=
  decide_eq_true_iff

@[simp] theorem sumClause_iff (w : Window) : sumClause w = true ↔ checksum w.payload = w.b8 :=
  decide_eq_true_iff

@[simp] theorem typeClause_iff (w : Window) (ty : Byte) : typeClause w ty = true ↔ w.b1 = ty :=
  decide_eq_true_iff

@[simp] theorem cmdClause_iff (cfg : Config) (w : Window) (ty c : Byte) :
    cmdClause cfg w ty c = true ↔ (ty = typeAck → ackCmd cfg w = c) := by
  simp only [cmdClause, Bool.or_eq_true, decide_eq_true_iff]
  tauto

/-- The verdict accepts exactly when all five clauses hold (43_response_decoder.md R150). -/
theorem verdictBits_accept (h t m y c : Bool) :
    verdictBits h t m y c = acceptVerdict ↔
      h = true ∧ t = true ∧ m = true ∧ y = true ∧ c = true := by
  revert h t m y c
  decide

/-- Each verdict bit is its clause (10_state.md R16). -/
theorem verdictBits_get (h t m y c : Bool) :
    (verdictBits h t m y c).getLsbD 4 = h ∧ (verdictBits h t m y c).getLsbD 3 = t ∧
    (verdictBits h t m y c).getLsbD 2 = m ∧ (verdictBits h t m y c).getLsbD 1 = y ∧
    (verdictBits h t m y c).getLsbD 0 = c := by
  revert h t m y c
  decide

/-- A response instruction is the tenth byte's transition of its window
(43_response_decoder.md R155 to R164). -/
theorem exec_of_responseWindow {i : Instr} {w : Window} (h : responseWindow i = some w) (s : State) :
    exec i s = receiveWindow w s := by
  cases i <;> first | cases h; done | (cases h; rfl)

/-- A command instruction that answers a next state had nothing pending or awaited before it, and did
what `ENCODE` of its bytes does (41_command_encoder.md R102 to R111). -/
theorem exec_command_next {i : Instr} {s t : State} (hc : responseWindow i = none)
    (h : exec i s = .next t) :
    (argumentBytes i).length ≤ 12 ∧ s.txpend = false ∧ s.armed = false ∧
      t = s.loadFrame (buildFrame s.cfg.layout s.tgt (commandByte i) (argumentBytes i)) := by
  have key : encodeOp (commandByte i) (argumentBytes i) s = .next t := by
    cases i with
    | setMode m => simp only [exec, execSetMode] at h; split at h; cases h; exact h
    | setRun m => simp only [exec, execSetRun] at h; split at h; cases h; exact h
    | setDuty m => simp only [exec, execSetDuty] at h; split at h; cases h; exact h
    | _ => first | exact h | cases hc
  rcases encodeOp_cases (commandByte i) (argumentBytes i) s with ⟨_, h'⟩ | ⟨_, _, h'⟩ | ⟨hn, hp, ha, h'⟩
  · rw [h'] at key; cases key
  · rw [h'] at key; cases key
  · rw [h'] at key
    cases key
    exact ⟨hn, hp, ha, rfl⟩

/-- A byte that survives an overflow keeps its place in the order (20_memory.md R41). -/
theorem survivors_sublist (lost : Nat → Bool) (i : Nat) (bs : List Byte) :
    (survivors lost i bs).Sublist bs := by
  induction bs generalizing i with
  | nil => exact List.Sublist.refl []
  | cons b bs ih =>
    simp only [survivors]
    split
    · exact (ih (i + 1)).cons b
    · exact (ih (i + 1)).cons_cons b

end Sys2Proof.Machine
end

