-- ==== Sys2Proof/Laws/Step.lean ====
section
/-!
SUPPORT. What each agent's turn and a step can do, said once.
-/

namespace Sys2Proof.Machine

/-- A run whose first step answers a next state goes on from there. -/
theorem run_next {k : Nat} {s t : State} (h : step s = .next t) :
    Sys2Proof.core.run (k + 1) s = Sys2Proof.core.run k t := by
  have e : Sys2Proof.core.step s = .next t := h
  simp only [Host.Core.run, e]

/-- A run of no steps stays where it is. -/
theorem run_zero (s : State) : Sys2Proof.core.run 0 s = .next s := rfl

/-- A run cut in two, where the first part answers a next state. -/
theorem run_add {m n : Nat} {s t : State} (h : Sys2Proof.core.run m s = .next t) :
    Sys2Proof.core.run (m + n) s = Sys2Proof.core.run n t := by
  induction m generalizing s with
  | zero =>
    cases h
    rw [Nat.zero_add]
  | succ m ih =>
    rw [Nat.add_right_comm]
    cases hs : step s with
    | next u =>
      rw [run_next hs] at h ⊢
      exact ih h
    | fault r => cases r
    | refused r =>
      have e : Sys2Proof.core.step s = .refused r := hs
      simp only [Host.Core.run, e] at h
      cases h

/-- The scan drops a byte other than the head (42_resynchronizer.md R138). -/
theorem scanResponse_skip {b : Byte} (h : b ≠ headByte) (bs : List Byte) :
    scanResponse (b :: bs) = scanResponse bs := by
  simp only [scanResponse, if_neg h]

/-- From a head byte on, ten bytes are the candidate (42_resynchronizer.md R138). -/
theorem scanResponse_frame {w : Window} (h : w.b0 = headByte) (rest : List Byte) :
    scanResponse (w.toList ++ rest) = .frame w rest := by
  rcases w with ⟨b0, b1, b2, b3, b4, b5, b6, b7, b8, b9⟩
  cases h
  rfl

/-- Fewer than nine bytes behind a head byte are no frame yet (42_resynchronizer.md R138). -/
theorem scanResponse_short {bs : List Byte} (h : bs.length < 9) :
    scanResponse (headByte :: bs) = .resynchronizing := by
  simp [scanResponse, h]

/-- The three things `RXBYTE` does (42_resynchronizer.md R131 to R133). -/
theorem rxByteOp_cases (b : Byte) (s : State) :
    (s.rxstate = .hunt ∧ b ≠ headByte ∧ rxByteOp b s = .next (s.emit (.skip b))) ∨
    (s.rxstate = .hunt ∧ b = headByte ∧ rxByteOp b s = .next s.startWindow) ∨
    (s.rxstate = .collect ∧ ∃ n : Fin 10, n.val = s.rxcnt.val + 1 ∧
      rxByteOp b s = .next (s.storeByte b n)) ∨
    (s.rxstate = .collect ∧ s.rxcnt = 9 ∧ rxByteOp b s = finishWindow (s.rxbuf.set 9 b) s) := by
  unfold rxByteOp
  cases hs : s.rxstate with
  | hunt =>
    by_cases hb : b = headByte
    · exact .inr (.inl ⟨rfl, hb, if_pos hb⟩)
    · exact .inl ⟨rfl, hb, if_neg hb⟩
  | collect =>
    by_cases hc : s.rxcnt.val < 9
    · exact .inr (.inr (.inl ⟨rfl, ⟨s.rxcnt.val + 1, by omega⟩, rfl, dif_pos hc⟩))
    · exact .inr (.inr (.inr ⟨rfl, by omega, dif_neg hc⟩))

/-- DEC's turn takes a byte exactly when it is armed and one is there (42_resynchronizer.md R137). -/
theorem decStep_cases (s : State) :
    (s.armed = true ∧ ∃ b rest, s.rx = b :: rest ∧ decStep s = rxByteOp b (s.withRx rest)) ∨
    ((s.armed = false ∨ s.rx = []) ∧ decStep s = .next s) := by
  unfold decStep
  cases ha : s.armed with
  | false => exact .inr ⟨.inl rfl, rfl⟩
  | true =>
    cases hx : s.rx with
    | nil => exact .inr ⟨.inr rfl, rfl⟩
    | cons b rest => exact .inl ⟨rfl, b, rest, rfl, rfl⟩

/-- What an arriving byte does: it is appended, or some bytes are lost (20_memory.md R41). -/
theorem arrive_cases (b : Byte) (s : State) :
    arrive b s = s.withRx (s.rx ++ [b]) ∨
    ∃ kept : List Byte, arrive b s = (s.withRx kept).useFree ∧
      ∃ depth, s.cfg.rxFifoDepth = some depth ∧ kept.length ≤ depth := by
  unfold arrive
  cases hd : s.cfg.rxFifoDepth with
  | none => exact .inl rfl
  | some depth =>
    by_cases hl : s.rx.length < depth
    · exact .inl (if_pos hl)
    · refine .inr ⟨_, if_neg hl, depth, rfl, ?_⟩
      exact List.length_take_le _ _

/-- TRANSPORT's turn appends the next byte of its feed, if there is one (20_memory.md R41). -/
theorem transportStep_cases (s : State) :
    (s.feed = [] ∧ transportStep s = .next s) ∨
    (∃ b rest, s.feed = b :: rest ∧ transportStep s = .next (arrive b (s.withFeed rest))) := by
  unfold transportStep
  cases hf : s.feed with
  | nil => exact .inl ⟨rfl, rfl⟩
  | cons b rest => exact .inr ⟨b, rest, rfl, rfl⟩

/-- A called request is rejected, answered from the cache, or exchanged (44_host_sequences.md R193, R195). -/
theorem callRequest_cases (r : Request) (s : State) :
    (usageRejected r = true ∧ callRequest r s = .next (s.deliver .usageError)) ∨
    (usageRejected r = false ∧ ∃ v, cachedAnswer s r = some v ∧ callRequest r s = .next (s.deliver v)) ∨
    (usageRejected r = false ∧ cachedAnswer s r = none ∧ callRequest r s = startRequest r s) := by
  unfold callRequest
  cases hu : usageRejected r with
  | true => exact .inl ⟨rfl, rfl⟩
  | false =>
    cases hc : cachedAnswer s r with
    | some v => exact .inr (.inl ⟨rfl, v, rfl, rfl⟩)
    | none => exact .inr (.inr ⟨rfl, rfl, rfl⟩)

/-- When `on_accept` of a request by lines is due (44_host_sequences.md R184). -/
theorem acceptedLine_eq_some {s : State} {issued : Option Byte} (h : acceptedLine s = some issued) :
    s.line = .waiting issued ∧ s.armed = false ∧ s.rspvalid = true := by
  unfold acceptedLine at h
  split at h
  · cases h
  · cases h
  · split at h
    · cases h
      exact ⟨‹_›, ‹_›⟩
    · cases h

/-- Taking an accepted response of a request by lines changes the cache, the returned values and the line
request (44_host_sequences.md R184). -/
theorem finishLine_eq (issued : Option Byte) (s : State) :
    finishLine issued s = { s with
      cache := refreshCache s.cfg issued s.rspbuf s.cache
      returned := s.returned ++ (lineResult issued s).toList
      line := .idle } := by
  unfold finishLine
  cases lineResult issued s <;> simp [onAccept, State.withCache, State.deliver, State.withLine]

/-- HOST's turn, by the phase of the request in progress (44_host_sequences.md R180). -/
theorem hostStep_cases (s : State) :
    (hostStep s = .next s) ∨
    (s.phase = .idle ∧ ∃ op rest, s.program = op :: rest ∧ hostStep s = hostOperation op rest s) ∨
    (s.phase = .idle ∧ ∃ issued, s.line = .waiting issued ∧ s.armed = false ∧ s.rspvalid = true ∧
      hostStep s = .next (finishLine issued s)) ∨
    (∃ r a as, s.phase = .writing r ∧ s.answers = a :: as ∧
      hostStep s = writeRequest r a (s.withAnswers as)) ∨
    (∃ r, s.phase = .arming r ∧ hostStep s = beginWait r s) ∨
    (∃ r, s.phase = .awaiting r ∧ s.armed = false ∧ s.rspvalid = true ∧
      hostStep s = .next (finishRequest r s)) := by
  unfold hostStep
  cases hp : s.phase with
  | idle =>
    cases hl : acceptedLine s with
    | some issued =>
      obtain ⟨h1, h2, h3⟩ := acceptedLine_eq_some hl
      exact .inr (.inr (.inl ⟨rfl, issued, h1, h2, h3, rfl⟩))
    | none =>
      cases hg : s.program with
      | nil => exact .inl rfl
      | cons op rest => exact .inr (.inl ⟨rfl, op, rest, rfl, rfl⟩)
  | writing r =>
    cases ha : s.answers with
    | nil => exact .inl rfl
    | cons a as => exact .inr (.inr (.inr (.inl ⟨r, a, as, rfl, rfl, rfl⟩)))
  | arming r => exact .inr (.inr (.inr (.inr (.inl ⟨r, rfl, rfl⟩))))
  | awaiting r =>
    by_cases hw : s.armed = false ∧ s.rspvalid = true
    · exact .inr (.inr (.inr (.inr (.inr ⟨r, rfl, hw.1, hw.2, if_pos hw⟩))))
    · exact .inl (if_neg hw)

/-- A step is one agent's turn, a turn that passes, or reset, on the state whose schedule has moved on
(00_scope.md R9). -/
theorem step_cases (s : State) :
    ∃ u, (u = s ∧ s.schedule = [] ∨ ∃ turn rest, s.schedule = turn :: rest ∧ u = s.withSchedule rest) ∧
      (step s = hostStep u ∨ step s = decStep u ∨ step s = transportStep u ∨ step s = .next u ∨
        (s.schedule.head? = some .reset ∧ step s = .next (resetEvent u))) := by
  unfold step systemStep
  cases hs : s.schedule with
  | nil =>
    refine ⟨s, .inl ⟨rfl, rfl⟩, ?_⟩
    simp only [autonomousStep]
    split
    · exact .inl rfl
    · split
      · exact .inr (.inl rfl)
      · split
        · exact .inr (.inr (.inl rfl))
        · exact .inr (.inr (.inr (.inl rfl)))
  | cons turn rest =>
    refine ⟨s.withSchedule rest, .inr ⟨turn, rest, rfl, rfl⟩, ?_⟩
    cases turn with
    | host => exact .inl rfl
    | dec => exact .inr (.inl rfl)
    | readFails => exact .inr (.inr (.inr (.inl rfl)))
    | transport => exact .inr (.inr (.inl rfl))
    | reset => exact .inr (.inr (.inr (.inr ⟨rfl, rfl⟩)))

end Sys2Proof.Machine
end

