-- ==== Sys2Proof/Laws/Host.lean ====
section
/-!
SUPPORT. What HOST's turn can do to the block and its streams, said once (44_host_sequences.md).
-/

namespace Sys2Proof.Machine

/-- The fields HOST's own bookkeeping never touches: the block, the streams, the trace and the schedule,
with the host's own fields set to fixed values. Two states with the same view differ only in the
program, the answers, the phase, the line request, the cache, the returned values and the free-value
counter. -/
def blockView (s : State) : State :=
  { s with program := [], answers := [], phase := .idle, line := .idle, cache := SensorState.start
           returned := [], freeCount := 0 }

/-- What one turn of HOST does to the block, apart from its own bookkeeping: nothing, `SETTGT`,
`ENCODE`, a successful `TXWRITE`, a failed one, or `ARM`. -/
def HostEffect (s u : State) : Prop :=
  u = s ∨
  (∃ t rest, s.phase = .idle ∧ s.program = .setTgt t :: rest ∧ u = s.setTgt t) ∨
  (s.txpend = false ∧ s.armed = false ∧ ∃ c args, args.length ≤ 12 ∧
    u = s.loadFrame (buildFrame s.cfg.layout s.tgt c args)) ∨
  (s.txpend = true ∧ u = s.frameSent.emit (.tx s.txbuf)) ∨
  (s.txpend = true ∧ ∃ n, u = s.frameFailed n) ∨
  (s.armed = false ∧ s.txpend = false ∧ ∃ ty c, (ty = typeMeas ∨ ty = typeAck) ∧
    u = s.latchExpectation ty c)

/-- A command row never reads as a response instruction. -/
@[simp] theorem responseWindow_readCommand (f : List Byte) (g : CmdForm) :
    responseWindow (readCommand f g) = none := by
  cases g <;> rfl

/-- What the HOST's program names is a command instruction. -/
theorem issuedInstruction_isCommand {l : Layout} {f : List Byte} {i : Instr}
    (h : issuedInstruction l f = .ok i) : responseWindow i = none := by
  unfold issuedInstruction at h
  split at h
  · cases h
  · cases h
    exact responseWindow_readCommand _ _

/-- What a request issues is a command instruction. -/
theorem commandOf_isCommand {r : Request} {i : Instr} (h : commandOf r = some i) :
    responseWindow i = none := by
  cases r <;> cases h <;> rfl

/-- `ENCODE`, on a state with the same block. -/
theorem encodeOp_effect {c : Byte} {args : List Byte} {s v t : State} (hv : blockView v = blockView s)
    (h : encodeOp c args v = .next t) : ∃ u, blockView t = blockView u ∧ HostEffect s u := by
  rcases encodeOp_cases c args v with ⟨_, e⟩ | ⟨_, _, e⟩ | ⟨hn, hp, ha, e⟩
  · rw [e] at h; cases h
  · rw [e] at h; cases h
  · rw [e] at h
    cases h
    have hc : v.cfg = s.cfg := (congrArg State.cfg hv :)
    have ht : v.tgt = s.tgt := (congrArg State.tgt hv :)
    refine ⟨s.loadFrame (buildFrame s.cfg.layout s.tgt c args), ?_, .inr (.inr (.inl ⟨?_, ?_, c, args, hn, rfl⟩))⟩
    · rw [hc, ht]
      exact congrArg (fun x : State => x.loadFrame (buildFrame s.cfg.layout s.tgt c args)) hv
    · exact (congrArg State.txpend hv).symm.trans hp
    · exact (congrArg State.armed hv).symm.trans ha

/-- A command instruction, on a state with the same block. -/
theorem exec_command_effect {i : Instr} {s v t : State} (hi : responseWindow i = none)
    (hv : blockView v = blockView s) (h : exec i v = .next t) :
    ∃ u, blockView t = blockView u ∧ HostEffect s u := by
  obtain ⟨hn, hp, ha, e⟩ := exec_command_next hi h
  refine encodeOp_effect (c := commandByte i) (args := argumentBytes i) hv ?_
  rw [encodeOp_ready hn hp ha, e]

/-- `TXWRITE`, on a state with the same block. -/
theorem txWriteOp_effect {a : WriteAnswer} {s v t : State} (hv : blockView v = blockView s)
    (h : txWriteOp a v = .next t) : ∃ u, blockView t = blockView u ∧ HostEffect s u := by
  have hb : v.txbuf = s.txbuf := (congrArg State.txbuf hv :)
  have hp : v.txpend = s.txpend := (congrArg State.txpend hv :)
  rcases txWriteOp_cases a v with ⟨_, e⟩ | ⟨hq, _, e⟩ | ⟨hq, n, _, e⟩ | ⟨_, n, _, e⟩
  · rw [e] at h; cases h
  · rw [e] at h
    cases h
    refine ⟨_, ?_, .inr (.inr (.inr (.inl ⟨hp.symm.trans hq, rfl⟩)))⟩
    rw [hb]
    exact congrArg (fun x : State => x.frameSent.emit (.tx s.txbuf)) hv
  · rw [e] at h
    cases h
    refine ⟨_, ?_, .inr (.inr (.inr (.inr (.inl ⟨hp.symm.trans hq, n, rfl⟩))))⟩
    exact congrArg (fun x : State => x.frameFailed n) hv
  · rw [e] at h; cases h

/-- `ARM`, on a state with the same block. -/
theorem armOp_effect {ty c : Byte} {s v t : State} (hv : blockView v = blockView s)
    (h : armOp ty c v = .next t) : ∃ u, blockView t = blockView u ∧ HostEffect s u := by
  unfold armOp at h
  split at h
  · cases h
  · split at h
    · cases h
    · rename_i hty hb
      cases h
      simp only [not_or, Bool.not_eq_true] at hb
      refine ⟨_, ?_, .inr (.inr (.inr (.inr (.inr ⟨?_, ?_, ty, c, by tauto, rfl⟩))))⟩
      · exact congrArg (fun x : State => x.latchExpectation ty c) hv
      · exact (congrArg State.armed hv).symm.trans hb.1
      · exact (congrArg State.txpend hv).symm.trans hb.2

/-- Waiting for an expectation, on a state with the same block. -/
theorem armExpectation_effect {e : Expectation} {s v t : State} (hv : blockView v = blockView s)
    (h : armExpectation e v = .next t) : ∃ u, blockView t = blockView u ∧ HostEffect s u := by
  cases e with
  | meas => exact armOp_effect (v := v.useFree) hv h
  | ack c => exact armOp_effect hv h

/-- All that HOST's turn can do to the block (44_host_sequences.md R180). -/
theorem hostStep_effect {s t : State} (h : hostStep s = .next t) :
    ∃ u, blockView t = blockView u ∧ HostEffect s u := by
  have same : ∀ {t : State}, blockView t = blockView s → ∃ u, blockView t = blockView u ∧ HostEffect s u :=
    fun e => ⟨s, e, .inl rfl⟩
  have after : ∀ {o : Result} {f : State → State}, thenNext o f = .next t →
      (∀ x, blockView (f x) = blockView x) →
      (∀ x, o = .next x → ∃ u, blockView x = blockView u ∧ HostEffect s u) →
      ∃ u, blockView t = blockView u ∧ HostEffect s u := by
    intro o f ho hf hx
    obtain ⟨x, e, rfl⟩ := thenNext_eq_next ho
    obtain ⟨u, hu, he⟩ := hx x e
    exact ⟨u, (hf x).trans hu, he⟩
  have start : ∀ {r : Request} {v : State}, blockView v = blockView s → startRequest r v = .next t →
      ∃ u, blockView t = blockView u ∧ HostEffect s u := by
    intro r v hv hr
    unfold startRequest at hr
    cases hc : commandOf r with
    | none =>
      rw [hc] at hr
      exact after hr (fun _ => rfl) fun x hx => armExpectation_effect hv hx
    | some i =>
      rw [hc] at hr
      exact after hr (fun _ => rfl) fun x hx => exec_command_effect (commandOf_isCommand hc) hv hx
  rcases hostStep_cases s with e | ⟨hp, op, rest, hg, e⟩ | ⟨hp, i, _, _, _, e⟩ | ⟨r, a, as, hp, ha, e⟩ | ⟨r, hp, e⟩ | ⟨r, hp, _, _, e⟩
  · rw [e] at h
    cases h
    exact same rfl
  · rw [e] at h
    cases op with
    | issue f =>
      simp only [hostOperation] at h
      split at h
      · rename_i i hi
        exact exec_command_effect (v := s.withProgram rest) (issuedInstruction_isCommand hi) rfl h
      · cases h
    | encode c args => exact encodeOp_effect (v := s.withProgram rest) rfl h
    | setTgt v =>
      cases h
      exact ⟨s.setTgt v, rfl, .inr (.inl ⟨v, rest, hp, hg, rfl⟩)⟩
    | txWrite =>
      simp only [hostOperation] at h
      split at h
      · cases h
      · split at h
        · cases h
          exact same rfl
        · rename_i a as _
          refine after h (fun x => ?_) fun x hx =>
            txWriteOp_effect (v := (s.withProgram rest).withAnswers as) rfl hx
          split
          · rfl
          · split <;> rfl
    | arm ty c =>
      exact after h (fun _ => rfl) fun x hx => armOp_effect (v := s.withProgram rest) rfl hx
    | await =>
      simp only [hostOperation] at h
      split at h <;> (cases h; exact same rfl)
    | call r =>
      simp only [hostOperation, callRequest] at h
      split at h
      · cases h
        exact same rfl
      · split at h
        · cases h
          exact same rfl
        · exact start (v := s.withProgram rest) rfl h
  · rw [e] at h
    cases h
    exact same (by rw [finishLine_eq]; rfl)
  · rw [e] at h
    refine after h (fun x => ?_) fun x hx => txWriteOp_effect (v := s.withAnswers as) rfl hx
    split <;> rfl
  · rw [e] at h
    unfold beginWait at h
    split at h
    · cases h
      exact same rfl
    · exact after h (fun _ => rfl) fun x hx => armExpectation_effect rfl hx
  · rw [e] at h
    cases h
    exact same rfl

/-- What a turn of HOST can do to a wait by lines: it begins one, leaves the one there is with its flags, or
belongs to a called request (44_host_sequences.md R180). -/
theorem hostStep_line {s t : State} {issued : Option Byte} (h : hostStep s = .next t)
    (hl : t.line = .waiting issued) :
    (t.phase = .idle ∧ t.armed = true) ∨
    (s.line = .waiting issued ∧ t.phase = s.phase ∧ t.armed = s.armed ∧ t.rspvalid = s.rspvalid) ∨
    (s.line = .waiting issued ∧ s.phase ≠ .idle) := by
  have busy : ∀ {x : State}, s.phase ≠ .idle → x.line = s.line → x.line = .waiting issued →
      s.line = .waiting issued ∧ s.phase ≠ .idle := fun hp e hx => ⟨e ▸ hx, hp⟩
  rcases hostStep_cases s with e | ⟨hp, op, rest, hg, e⟩ | ⟨hp, i, _, _, _, e⟩ | ⟨r, a, as, hp, ha, e⟩ | ⟨r, hp, e⟩ | ⟨r, hp, _, _, e⟩
  · rw [e] at h
    cases h
    exact .inr (.inl ⟨hl, rfl, rfl, rfl⟩)
  · rw [e] at h
    cases op with
    | issue f =>
      simp only [hostOperation] at h
      split at h
      · rename_i i hi
        obtain ⟨_, _, _, rfl⟩ := exec_command_next (issuedInstruction_isCommand hi) h
        exact .inr (.inl ⟨hl, rfl, rfl, rfl⟩)
      · cases h
    | encode c args =>
      rcases encodeOp_cases c args (s.withProgram rest) with ⟨_, e⟩ | ⟨_, _, e⟩ | ⟨_, _, _, e⟩ <;>
        (simp only [hostOperation] at h; rw [e] at h; cases h)
      exact .inr (.inl ⟨hl, rfl, rfl, rfl⟩)
    | setTgt v =>
      cases h
      exact .inr (.inl ⟨hl, rfl, rfl, rfl⟩)
    | txWrite =>
      simp only [hostOperation] at h
      split at h
      · cases h
      · split at h
        · cases h
          exact .inr (.inl ⟨hl, rfl, rfl, rfl⟩)
        · rename_i a as _
          obtain ⟨x, ex, rfl⟩ := thenNext_eq_next h
          rcases txWriteOp_cases a ((s.withProgram rest).withAnswers as) with
            ⟨_, e⟩ | ⟨_, _, e⟩ | ⟨hq, n, _, e⟩ | ⟨_, n, _, e⟩ <;> (rw [e] at ex; cases ex)
          · exfalso
            revert hl
            simp only [State.emit_txpend, State.frameSent_txpend, Bool.false_eq_true, if_false]
            split <;> simp
          · rw [if_pos (by exact hq)] at hl ⊢
            exact .inr (.inl ⟨hl, rfl, rfl, rfl⟩)
    | arm ty c =>
      obtain ⟨x, ex, rfl⟩ := thenNext_eq_next h
      rcases armOp_cases ty c (s.withProgram rest) with ⟨_, _, e⟩ | ⟨_, _, e⟩ | ⟨_, _, _, e⟩ <;>
        (rw [e] at ex; cases ex)
      exact .inl ⟨hp, rfl⟩
    | await =>
      simp only [hostOperation] at h
      split at h <;> (cases h; exact .inr (.inl ⟨hl, rfl, rfl, rfl⟩))
    | call r =>
      rcases callRequest_cases r (s.withProgram rest) with ⟨_, e⟩ | ⟨_, v, _, e⟩ | ⟨_, _, e⟩ <;>
        (simp only [hostOperation] at h; rw [e] at h)
      · cases h
        exact .inr (.inl ⟨hl, rfl, rfl, rfl⟩)
      · cases h
        exact .inr (.inl ⟨hl, rfl, rfl, rfl⟩)
      · exfalso
        unfold startRequest at h
        split at h <;> (obtain ⟨x, _, rfl⟩ := thenNext_eq_next h; cases hl)
  · rw [e, finishLine_eq] at h
    cases h
    cases hl
  · rw [e] at h
    obtain ⟨x, ex, rfl⟩ := thenNext_eq_next h
    have hx : x.line = s.line := by
      rcases txWriteOp_cases a (s.withAnswers as) with ⟨_, e⟩ | ⟨_, _, e⟩ | ⟨_, n, _, e⟩ | ⟨_, n, _, e⟩ <;>
        (rw [e] at ex; cases ex <;> rfl)
    refine .inr (.inr (busy (by simp [hp]) ?_ hl))
    split
    · exact hx
    · exact hx
  · rw [e] at h
    unfold beginWait at h
    split at h
    · cases h
      exact .inr (.inr ⟨hl, by simp [hp]⟩)
    · rename_i q _
      obtain ⟨x, ex, rfl⟩ := thenNext_eq_next h
      have hx : x.line = s.line := by
        cases q with
        | meas =>
          rcases armOp_cases typeMeas (Config.freeByte s.freeCount) s.useFree with
            ⟨_, _, e⟩ | ⟨_, _, e⟩ | ⟨_, _, _, e⟩ <;>
            (simp only [armExpectation] at ex; rw [e] at ex; cases ex)
          rfl
        | ack c =>
          rcases armOp_cases typeAck c s with ⟨_, _, e⟩ | ⟨_, _, e⟩ | ⟨_, _, _, e⟩ <;>
            (simp only [armExpectation] at ex; rw [e] at ex; cases ex)
          rfl
      exact .inr (.inr (busy (by simp [hp]) hx hl))
  · rw [e] at h
    cases h
    exact .inr (.inr ⟨hl, by simp [hp]⟩)

end Sys2Proof.Machine
end

