-- ==== Sys2Proof/Laws/PerInstr.lean ====
section
/-!
SUPPORT. What holds of every instruction's encoding, one lemma per constructor.
-/

namespace Sys2Proof.Laws

/-- Every instruction's frame begins with the head byte, ends with the tail byte and has the length of
its direction: ten bytes for a response, `CMD_LEN` for a command (30_encoding.md R61, R63, R78). -/
def FrameShape.Statement (i : Instr) : Prop :=
  ∀ (l : Layout) (tgt : Half),
    (encode l tgt i).length = (if (responseWindow i).isSome then rspLen else cmdLen l) ∧
    byteAt (encode l tgt i) 0 = headByte ∧
    byteAt (encode l tgt i) ((encode l tgt i).length - 1) = tailByte

/-- The shape of a command's frame. -/
theorem buildFrame_shape (l : Layout) (tgt : Half) (c : Byte) (args : List Byte) :
    (buildFrame l tgt c args).length = cmdLen l ∧ byteAt (buildFrame l tgt c args) 0 = headByte ∧
      byteAt (buildFrame l tgt c args) ((buildFrame l tgt c args).length - 1) = tailByte := by
  refine ⟨buildFrame_length l tgt c args, ?_⟩
  obtain ⟨a0, a1, a2, a3, a4, a5, a6, a7, a8, a9, a10, a11, h⟩ :=
    eq_of_length_twelve (padArgs args) (padArgs_length args)
  rw [← buildFrame_padArgs, h]
  cases l
  · rw [buildFrame_l17]; exact ⟨rfl, rfl⟩
  · rw [buildFrame_l19]; exact ⟨rfl, rfl⟩

theorem FrameShape.getMode : Statement .getMode :=
  fun l tgt => buildFrame_shape l tgt 0x02 [0x00]

theorem FrameShape.setMode (m : Byte) : Statement (.setMode m) :=
  fun l tgt => buildFrame_shape l tgt 0x02 [0x01, m]

theorem FrameShape.query : Statement .query :=
  fun l tgt => buildFrame_shape l tgt 0x04 []

theorem FrameShape.setId (n : Half) : Statement (.setId n) :=
  fun l tgt => buildFrame_shape l tgt 0x05 (zeros 10 ++ [lo8 n, hi8 n])

theorem FrameShape.getRun : Statement .getRun :=
  fun l tgt => buildFrame_shape l tgt 0x06 [0x00]

theorem FrameShape.setRun (r : Byte) : Statement (.setRun r) :=
  fun l tgt => buildFrame_shape l tgt 0x06 [0x01, r]

theorem FrameShape.getFw : Statement .getFw :=
  fun l tgt => buildFrame_shape l tgt 0x07 []

theorem FrameShape.getDuty : Statement .getDuty :=
  fun l tgt => buildFrame_shape l tgt 0x08 [0x00]

theorem FrameShape.setDuty (d : Byte) : Statement (.setDuty d) :=
  fun l tgt => buildFrame_shape l tgt 0x08 [0x01, d]

theorem FrameShape.raw (c : Byte) (args : List Byte) : Statement (.raw c args) :=
  fun l tgt => buildFrame_shape l tgt c args

theorem FrameShape.meas (pm25 pm10 id : Half) (chk : Byte) : Statement (.meas pm25 pm10 id chk) :=
  fun _ _ => ⟨rfl, rfl, rfl⟩

theorem FrameShape.ackMode (sub mode p3 : Byte) (id : Half) (chk : Byte) :
    Statement (.ackMode sub mode p3 id chk) := fun _ _ => ⟨rfl, rfl, rfl⟩

theorem FrameShape.ackId (p1 p2 p3 : Byte) (id : Half) (chk : Byte) :
    Statement (.ackId p1 p2 p3 id chk) := fun _ _ => ⟨rfl, rfl, rfl⟩

theorem FrameShape.ackRun (sub run p3 : Byte) (id : Half) (chk : Byte) :
    Statement (.ackRun sub run p3 id chk) := fun _ _ => ⟨rfl, rfl, rfl⟩

theorem FrameShape.ackFw (year month day : Byte) (id : Half) (chk : Byte) :
    Statement (.ackFw year month day id chk) := fun _ _ => ⟨rfl, rfl, rfl⟩

theorem FrameShape.ackDuty (sub duty p3 : Byte) (id : Half) (chk : Byte) :
    Statement (.ackDuty sub duty p3 id chk) := fun _ _ => ⟨rfl, rfl, rfl⟩

theorem FrameShape.ackOther (cmd p1 p2 p3 : Byte) (id : Half) (chk : Byte) :
    Statement (.ackOther cmd p1 p2 p3 id chk) := fun _ _ => ⟨rfl, rfl, rfl⟩

end Sys2Proof.Laws
end

