-- ==== Sys2Proof/Tests/Slice0.lean ====
section
/-!
SUPPORT. Tests and witnesses. Expected bytes are those of spec/95_test_vectors.md (its identifiers stand
in the comments), which evaluates the spec's rules by hand.
-/

namespace Sys2Proof.Tests

open Sys2Proof Sys2Proof.Machine

/-! ### Helpers -/

/-- The state of a next outcome. -/
def nextOf (o : Result) : Option State :=
  match o with
  | .next s => some s
  | .fault _ => none
  | .refused _ => none

/-- The refusal of an outcome. -/
def refusalOf (o : Result) : Option Refusal :=
  match o with
  | .next _ => none
  | .fault _ => none
  | .refused r => some r

/-- After reset, with a layout. -/
def ready (l : Layout) : State := State.initial { Config.standard with layout := l }

/-- After reset, with a frame pending. -/
def pending : State :=
  { State.reset with
    txpend := true, txbuf := [0xAA, 0xB4, 0x08, 0, 0, 0, 0, 0, 0, 0, 0, 0, 0, 0xFF, 0xFF, 0x06, 0xAB] }

/-- After reset and `ARM ty, c`. -/
def armedFor (ty c : Byte) : State :=
  { State.reset with armed := true, expType := ty, expCmd := c }

/-- The machine with this window's first nine bytes collected, armed for its type and echo, and the
tenth byte next in the stream. -/
def nineIn (w : Window) : State :=
  { armedFor w.b1 w.b2 with rxbuf := w, rxstate := .collect, rxcnt := 9, rx := [w.b9] }

/-- TXBUF after a command instruction. -/
def txbufAfter (i : Instr) (s : State) : Option (List Byte) := (nextOf (exec i s)).map State.txbuf

/-- Verdict, reason, RSPBUF and ARMED after a response instruction. -/
def judged (o : Result) : Option (BitVec 5 × BitVec 3 × Window × Bool) :=
  (nextOf o).map fun s => (s.verdict, s.reason, s.rspbuf, s.armed)

/-! ### WellFormed refuses ill-formed terms (30_encoding.md R66, R82; 43_response_decoder.md R164) -/

theorem test_wf_refuses_wide_mode : (Instr.setMode 2).wf = false := by decide

theorem test_wf_refuses_wide_run : (Instr.setRun 2).wf = false := by decide

theorem test_wf_refuses_wide_duty : (Instr.setDuty 32).wf = false := by decide

theorem test_wf_refuses_thirteen_arguments : (Instr.raw 0x08 (zeros 13)).wf = false := by decide

theorem test_wf_refuses_named_echo :
    (Instr.ackOther 0x02 0 0 0 0 0).wf = false ∧ (Instr.ackOther 0x08 0 0 0 0 0).wf = false := by decide

theorem test_wf_takes_the_bounds :
    (Instr.setMode 1).wf = true ∧ (Instr.setRun 1).wf = true ∧ (Instr.setDuty 31).wf = true ∧
    (Instr.raw 0x08 (zeros 12)).wf = true ∧ (Instr.ackOther 0x04 0 0 0 0 0).wf = true := by decide

/-! ### Decoding: one written word per constructor, both layouts for a command -/

/-- V2.1, V2.41. -/
theorem test_decode_getMode :
    decode .l17 [0xAA, 0xB4, 0x02, 0x00, 0x00, 0x00, 0x00, 0x00, 0x00, 0x00, 0x00, 0x00, 0x00, 0xFF, 0xFF, 0x00, 0xAB] = .ok (.getMode) ∧
    decode .l19 [0xAA, 0xB4, 0x02, 0x00, 0x00, 0x00, 0x00, 0x00, 0x00, 0x00, 0x00, 0x00, 0x00, 0x00, 0x00, 0xFF, 0xFF, 0x00, 0xAB] = .ok (.getMode) := by
  decide

/-- V2.3, V2.43. -/
theorem test_decode_setMode :
    decode .l17 [0xAA, 0xB4, 0x02, 0x01, 0x01, 0x00, 0x00, 0x00, 0x00, 0x00, 0x00, 0x00, 0x00, 0xFF, 0xFF, 0x02, 0xAB] = .ok (.setMode 1) ∧
    decode .l19 [0xAA, 0xB4, 0x02, 0x01, 0x01, 0x00, 0x00, 0x00, 0x00, 0x00, 0x00, 0x00, 0x00, 0x00, 0x00, 0xFF, 0xFF, 0x02, 0xAB] = .ok (.setMode 1) := by
  decide

/-- V2.4, V2.44. -/
theorem test_decode_query :
    decode .l17 [0xAA, 0xB4, 0x04, 0x00, 0x00, 0x00, 0x00, 0x00, 0x00, 0x00, 0x00, 0x00, 0x00, 0xFF, 0xFF, 0x02, 0xAB] = .ok (.query) ∧
    decode .l19 [0xAA, 0xB4, 0x04, 0x00, 0x00, 0x00, 0x00, 0x00, 0x00, 0x00, 0x00, 0x00, 0x00, 0x00, 0x00, 0xFF, 0xFF, 0x02, 0xAB] = .ok (.query) := by
  decide

/-- V2.6, V2.46. -/
theorem test_decode_setId :
    decode .l17 [0xAA, 0xB4, 0x05, 0x00, 0x00, 0x00, 0x00, 0x00, 0x00, 0x00, 0x00, 0x00, 0x00, 0x60, 0xA1, 0x06, 0xAB] = .ok (.setId 0xA160) ∧
    decode .l19 [0xAA, 0xB4, 0x05, 0x00, 0x00, 0x00, 0x00, 0x00, 0x00, 0x00, 0x00, 0x00, 0x00, 0x60, 0xA1, 0xFF, 0xFF, 0x04, 0xAB] = .ok (.setId 0xA160) := by
  decide

/-- V2.11, V2.51. -/
theorem test_decode_getRun :
    decode .l17 [0xAA, 0xB4, 0x06, 0x00, 0x00, 0x00, 0x00, 0x00, 0x00, 0x00, 0x00, 0x00, 0x00, 0xFF, 0xFF, 0x04, 0xAB] = .ok (.getRun) ∧
    decode .l19 [0xAA, 0xB4, 0x06, 0x00, 0x00, 0x00, 0x00, 0x00, 0x00, 0x00, 0x00, 0x00, 0x00, 0x00, 0x00, 0xFF, 0xFF, 0x04, 0xAB] = .ok (.getRun) := by
  decide

/-- V2.13, V2.53. -/
theorem test_decode_setRun :
    decode .l17 [0xAA, 0xB4, 0x06, 0x01, 0x01, 0x00, 0x00, 0x00, 0x00, 0x00, 0x00, 0x00, 0x00, 0xFF, 0xFF, 0x06, 0xAB] = .ok (.setRun 1) ∧
    decode .l19 [0xAA, 0xB4, 0x06, 0x01, 0x01, 0x00, 0x00, 0x00, 0x00, 0x00, 0x00, 0x00, 0x00, 0x00, 0x00, 0xFF, 0xFF, 0x06, 0xAB] = .ok (.setRun 1) := by
  decide

/-- V2.14, V2.54. -/
theorem test_decode_getFw :
    decode .l17 [0xAA, 0xB4, 0x07, 0x00, 0x00, 0x00, 0x00, 0x00, 0x00, 0x00, 0x00, 0x00, 0x00, 0xFF, 0xFF, 0x05, 0xAB] = .ok (.getFw) ∧
    decode .l19 [0xAA, 0xB4, 0x07, 0x00, 0x00, 0x00, 0x00, 0x00, 0x00, 0x00, 0x00, 0x00, 0x00, 0x00, 0x00, 0xFF, 0xFF, 0x05, 0xAB] = .ok (.getFw) := by
  decide

/-- V2.15, V2.55. -/
theorem test_decode_getDuty :
    decode .l17 [0xAA, 0xB4, 0x08, 0x00, 0x00, 0x00, 0x00, 0x00, 0x00, 0x00, 0x00, 0x00, 0x00, 0xFF, 0xFF, 0x06, 0xAB] = .ok (.getDuty) ∧
    decode .l19 [0xAA, 0xB4, 0x08, 0x00, 0x00, 0x00, 0x00, 0x00, 0x00, 0x00, 0x00, 0x00, 0x00, 0x00, 0x00, 0xFF, 0xFF, 0x06, 0xAB] = .ok (.getDuty) := by
  decide

/-- V2.18, V2.58. -/
theorem test_decode_setDuty :
    decode .l17 [0xAA, 0xB4, 0x08, 0x01, 0x1E, 0x00, 0x00, 0x00, 0x00, 0x00, 0x00, 0x00, 0x00, 0xFF, 0xFF, 0x25, 0xAB] = .ok (.setDuty 30) ∧
    decode .l19 [0xAA, 0xB4, 0x08, 0x01, 0x1E, 0x00, 0x00, 0x00, 0x00, 0x00, 0x00, 0x00, 0x00, 0x00, 0x00, 0xFF, 0xFF, 0x25, 0xAB] = .ok (.setDuty 30) := by
  decide

/-- V2.30, V2.65. -/
theorem test_decode_raw :
    decode .l17 [0xAA, 0xB4, 0xFF, 0xFF, 0xFF, 0xFF, 0xFF, 0xFF, 0xFF, 0xFF, 0xFF, 0xFF, 0xFF, 0xFF, 0xFF, 0xF3, 0xAB] =
      .ok (.raw 0xFF (List.replicate 12 0xFF)) ∧
    decode .l19 [0xAA, 0xB4, 0xFF, 0xFF, 0xFF, 0xFF, 0xFF, 0xFF, 0xFF, 0xFF, 0xFF, 0xFF, 0xFF, 0xFF, 0xFF, 0xFF, 0xFF, 0xF1, 0xAB] =
      .ok (.raw 0xFF (List.replicate 12 0xFF)) := by decide

/-- V4.15. -/
theorem test_decode_meas : decode .l17 [0xAA, 0xC0, 0x19, 0x00, 0x64, 0x00, 0x34, 0x12, 0xC3, 0xAB] = .ok (.meas 25 100 0x1234 0xC3) := by
  decide

/-- V4.24. -/
theorem test_decode_ackMode : decode .l17 [0xAA, 0xC5, 0x02, 0x00, 0x01, 0x00, 0x34, 0x12, 0x49, 0xAB] = .ok (.ackMode 0 1 0 0x1234 0x49) := by
  decide

/-- V4.33. -/
theorem test_decode_ackId : decode .l17 [0xAA, 0xC5, 0x05, 0x00, 0x00, 0x00, 0x60, 0xA1, 0x06, 0xAB] = .ok (.ackId 0 0 0 0xA160 0x06) := by
  decide

/-- V4.27. -/
theorem test_decode_ackRun : decode .l17 [0xAA, 0xC5, 0x06, 0x01, 0x00, 0x00, 0x34, 0x12, 0x4D, 0xAB] = .ok (.ackRun 1 0 0 0x1234 0x4D) := by
  decide

/-- V4.20. -/
theorem test_decode_ackFw : decode .l17 [0xAA, 0xC5, 0x07, 0x12, 0x0B, 0x10, 0x34, 0x12, 0x7A, 0xAB] = .ok (.ackFw 18 11 16 0x1234 0x7A) := by
  decide

/-- V4.30. -/
theorem test_decode_ackDuty : decode .l17 [0xAA, 0xC5, 0x08, 0x01, 0x05, 0x00, 0x34, 0x12, 0x54, 0xAB] = .ok (.ackDuty 1 5 0 0x1234 0x54) := by
  decide

/-- V4.34. -/
theorem test_decode_ackOther : decode .l17 [0xAA, 0xC5, 0x09, 0x01, 0x02, 0x03, 0x34, 0x12, 0x55, 0xAB] = .ok (.ackOther 0x09 1 2 3 0x1234 0x55) := by
  decide

/-- A wrong checksum, length, head, marker, tail or type is refused by its name. -/
theorem test_decode_refuses_by_name :
    decode .l17 [0xAA, 0xB4, 0x04, 0, 0, 0, 0, 0, 0, 0, 0, 0, 0, 0xFF, 0xFF, 0x03, 0xAB] = .error .badChecksum ∧
    decode .l19 [0xAA, 0xB4, 0x04, 0, 0, 0, 0, 0, 0, 0, 0, 0, 0, 0xFF, 0xFF, 0x02, 0xAB] = .error .badLength ∧
    decode .l17 [0xAB, 0xB4, 0x04, 0, 0, 0, 0, 0, 0, 0, 0, 0, 0, 0xFF, 0xFF, 0x02, 0xAB] = .error .badHead ∧
    decode .l17 [0xAA, 0xB5, 0x04, 0, 0, 0, 0, 0, 0, 0, 0, 0, 0, 0xFF, 0xFF, 0x02, 0xAB] = .error .badMarker ∧
    decode .l17 [0xAA, 0xB4, 0x04, 0, 0, 0, 0, 0, 0, 0, 0, 0, 0, 0xFF, 0xFF, 0x02, 0xAA] = .error .badTail ∧
    decode .l17 [0xAA, 0xC1, 0x19, 0, 0x64, 0, 0x34, 0x12, 0xC3, 0xAB] = .error .badType := by
  decide

/-- The table's own words, all field bits zero, name their instruction and run from reset. -/
theorem test_table_words :
    decodeTableWord 136 (0xAB * 256 ^ 16 + 0x02B4AA) = some .getMode ∧
    decodeTableWord 152 (0xAB * 256 ^ 18 + 0x0108B4AA) = some (.setDuty 0) ∧
    decodeTableWord 80 (0xAB * 256 ^ 9 + 0x07C5AA) = some (.ackFw 0 0 0 0 0) := by decide

theorem test_fetch_word_runs :
    (nextOf (step (State.reset.withFetchWord 152 (0xAB * 256 ^ 18 + 0x0108B4AA)))).map State.txbuf =
      some [0xAA, 0xB4, 0x08, 0x01, 0x00, 0, 0, 0, 0, 0, 0, 0, 0, 0, 0, 0xFF, 0xFF, 0x07, 0xAB] ∧
    judged (step (State.reset.withFetchWord 80 (0xAB * 256 ^ 9 + 0x07 * 256 ^ 8 + 0x07C5AA))) =
      some (0b11111, 0, ⟨0xAA, 0xC5, 0x07, 0, 0, 0, 0, 0, 0x07, 0xAB⟩, false) := by decide

/-! ### The command instructions -/

/-- V2.1, V2.41. -/
theorem test_exec_getMode :
    txbufAfter (.getMode) (ready .l17) = some [0xAA, 0xB4, 0x02, 0x00, 0x00, 0x00, 0x00, 0x00, 0x00, 0x00, 0x00, 0x00, 0x00, 0xFF, 0xFF, 0x00, 0xAB] ∧
    txbufAfter (.getMode) (ready .l19) = some [0xAA, 0xB4, 0x02, 0x00, 0x00, 0x00, 0x00, 0x00, 0x00, 0x00, 0x00, 0x00, 0x00, 0x00, 0x00, 0xFF, 0xFF, 0x00, 0xAB] := by
  decide

/-- V2.3, V2.43. -/
theorem test_exec_setMode :
    txbufAfter (.setMode 1) (ready .l17) = some [0xAA, 0xB4, 0x02, 0x01, 0x01, 0x00, 0x00, 0x00, 0x00, 0x00, 0x00, 0x00, 0x00, 0xFF, 0xFF, 0x02, 0xAB] ∧
    txbufAfter (.setMode 1) (ready .l19) = some [0xAA, 0xB4, 0x02, 0x01, 0x01, 0x00, 0x00, 0x00, 0x00, 0x00, 0x00, 0x00, 0x00, 0x00, 0x00, 0xFF, 0xFF, 0x02, 0xAB] := by
  decide

/-- V2.4, V2.44. -/
theorem test_exec_query :
    txbufAfter (.query) (ready .l17) = some [0xAA, 0xB4, 0x04, 0x00, 0x00, 0x00, 0x00, 0x00, 0x00, 0x00, 0x00, 0x00, 0x00, 0xFF, 0xFF, 0x02, 0xAB] ∧
    txbufAfter (.query) (ready .l19) = some [0xAA, 0xB4, 0x04, 0x00, 0x00, 0x00, 0x00, 0x00, 0x00, 0x00, 0x00, 0x00, 0x00, 0x00, 0x00, 0xFF, 0xFF, 0x02, 0xAB] := by
  decide

/-- V2.6, V2.46. -/
theorem test_exec_setId :
    txbufAfter (.setId 0xA160) (ready .l17) = some [0xAA, 0xB4, 0x05, 0x00, 0x00, 0x00, 0x00, 0x00, 0x00, 0x00, 0x00, 0x00, 0x00, 0x60, 0xA1, 0x06, 0xAB] ∧
    txbufAfter (.setId 0xA160) (ready .l19) = some [0xAA, 0xB4, 0x05, 0x00, 0x00, 0x00, 0x00, 0x00, 0x00, 0x00, 0x00, 0x00, 0x00, 0x60, 0xA1, 0xFF, 0xFF, 0x04, 0xAB] := by
  decide

/-- V2.11, V2.51. -/
theorem test_exec_getRun :
    txbufAfter (.getRun) (ready .l17) = some [0xAA, 0xB4, 0x06, 0x00, 0x00, 0x00, 0x00, 0x00, 0x00, 0x00, 0x00, 0x00, 0x00, 0xFF, 0xFF, 0x04, 0xAB] ∧
    txbufAfter (.getRun) (ready .l19) = some [0xAA, 0xB4, 0x06, 0x00, 0x00, 0x00, 0x00, 0x00, 0x00, 0x00, 0x00, 0x00, 0x00, 0x00, 0x00, 0xFF, 0xFF, 0x04, 0xAB] := by
  decide

/-- V2.13, V2.53. -/
theorem test_exec_setRun :
    txbufAfter (.setRun 1) (ready .l17) = some [0xAA, 0xB4, 0x06, 0x01, 0x01, 0x00, 0x00, 0x00, 0x00, 0x00, 0x00, 0x00, 0x00, 0xFF, 0xFF, 0x06, 0xAB] ∧
    txbufAfter (.setRun 1) (ready .l19) = some [0xAA, 0xB4, 0x06, 0x01, 0x01, 0x00, 0x00, 0x00, 0x00, 0x00, 0x00, 0x00, 0x00, 0x00, 0x00, 0xFF, 0xFF, 0x06, 0xAB] := by
  decide

/-- V2.14, V2.54. -/
theorem test_exec_getFw :
    txbufAfter (.getFw) (ready .l17) = some [0xAA, 0xB4, 0x07, 0x00, 0x00, 0x00, 0x00, 0x00, 0x00, 0x00, 0x00, 0x00, 0x00, 0xFF, 0xFF, 0x05, 0xAB] ∧
    txbufAfter (.getFw) (ready .l19) = some [0xAA, 0xB4, 0x07, 0x00, 0x00, 0x00, 0x00, 0x00, 0x00, 0x00, 0x00, 0x00, 0x00, 0x00, 0x00, 0xFF, 0xFF, 0x05, 0xAB] := by
  decide

/-- V2.15, V2.55. -/
theorem test_exec_getDuty :
    txbufAfter (.getDuty) (ready .l17) = some [0xAA, 0xB4, 0x08, 0x00, 0x00, 0x00, 0x00, 0x00, 0x00, 0x00, 0x00, 0x00, 0x00, 0xFF, 0xFF, 0x06, 0xAB] ∧
    txbufAfter (.getDuty) (ready .l19) = some [0xAA, 0xB4, 0x08, 0x00, 0x00, 0x00, 0x00, 0x00, 0x00, 0x00, 0x00, 0x00, 0x00, 0x00, 0x00, 0xFF, 0xFF, 0x06, 0xAB] := by
  decide

/-- V2.18, V2.58. -/
theorem test_exec_setDuty :
    txbufAfter (.setDuty 30) (ready .l17) = some [0xAA, 0xB4, 0x08, 0x01, 0x1E, 0x00, 0x00, 0x00, 0x00, 0x00, 0x00, 0x00, 0x00, 0xFF, 0xFF, 0x25, 0xAB] ∧
    txbufAfter (.setDuty 30) (ready .l19) = some [0xAA, 0xB4, 0x08, 0x01, 0x1E, 0x00, 0x00, 0x00, 0x00, 0x00, 0x00, 0x00, 0x00, 0x00, 0x00, 0xFF, 0xFF, 0x25, 0xAB] := by
  decide

/-- V2.27, V2.64. -/
theorem test_exec_raw :
    txbufAfter (.raw 0x08 [0, 0, 0, 0, 0, 0, 0, 0, 0, 0, 0x12, 0x34]) (ready .l17) = some [0xAA, 0xB4, 0x08, 0x00, 0x00, 0x00, 0x00, 0x00, 0x00, 0x00, 0x00, 0x00, 0x00, 0x12, 0x34, 0x4E, 0xAB] ∧
    txbufAfter (.raw 0x08 [0, 0, 0, 0, 0, 0, 0, 0, 0, 0, 0x12, 0x34]) (ready .l19) = some [0xAA, 0xB4, 0x08, 0x00, 0x00, 0x00, 0x00, 0x00, 0x00, 0x00, 0x00, 0x00, 0x00, 0x12, 0x34, 0xFF, 0xFF, 0x4C, 0xAB] := by
  decide

/-- V2.7, V2.9, V2.10: only a selector of two zero bytes is replaced. -/
theorem test_exec_setId_substitution :
    (txbufAfter (.setId 0) (ready .l17)).map (fun f => f.drop 13) = some [0xFF, 0xFF, 0x03, 0xAB] ∧
    (txbufAfter (.setId 0x00FF) (ready .l17)).map (fun f => f.drop 13) = some [0xFF, 0x00, 0x04, 0xAB] ∧
    (txbufAfter (.setId 0x0100) (ready .l17)).map (fun f => f.drop 13) = some [0x00, 0x01, 0x06, 0xAB] := by
  decide

/-- V2.19, V2.20. -/
theorem test_exec_operand_range :
    refusalOf (exec (.setDuty 31) State.reset) = some .operandRange ∧
    refusalOf (exec (.setMode 2) State.reset) = some .operandRange ∧
    refusalOf (exec (.setRun 2) State.reset) = some .operandRange := by decide

/-- V2.34, V2.35. -/
theorem test_encode_refusals :
    refusalOf (encodeOp 0x08 (zeros 13) State.reset) = some .tooManyArgs ∧
    refusalOf (exec .query pending) = some .overlappingRequest ∧
    refusalOf (exec .query (armedFor 0xC0 0)) = some .overlappingRequest := by decide

/-- V2.71, V2.72, V2.74. -/
theorem test_txWrite :
    (nextOf (txWriteOp .ok pending)).map (fun s => (s.txpend, s.txHistory)) = some (false, pending.txbuf) ∧
    (nextOf (txWriteOp (.error 2) pending)).map (fun s => (s.txpend, s.txHistory)) =
      some (true, [0xAA, 0xB4]) ∧
    refusalOf (txWriteOp .ok State.reset) = some .nothingToSend := by decide

/-- V3.9, V3.10. -/
theorem test_arm_refusals :
    refusalOf (armOp 0xC1 0 State.reset) = some .badExpectation ∧
    refusalOf (armOp 0xC0 0 (armedFor 0xC0 0)) = some .overlappingRequest := by decide

/-! ### The response instructions: each accepted when awaited -/

/-- V4.15. -/
theorem test_exec_meas :
    judged (exec (.meas 25 100 0x1234 0xC3) (armedFor 0xC0 0x19)) =
      some (0b11111, 0, ⟨0xAA, 0xC0, 0x19, 0x00, 0x64, 0x00, 0x34, 0x12, 0xC3, 0xAB⟩, false) := by decide

/-- V4.24. -/
theorem test_exec_ackMode :
    judged (exec (.ackMode 0 1 0 0x1234 0x49) (armedFor 0xC5 0x02)) =
      some (0b11111, 0, ⟨0xAA, 0xC5, 0x02, 0x00, 0x01, 0x00, 0x34, 0x12, 0x49, 0xAB⟩, false) := by decide

/-- V4.33. -/
theorem test_exec_ackId :
    judged (exec (.ackId 0 0 0 0xA160 0x06) (armedFor 0xC5 0x05)) =
      some (0b11111, 0, ⟨0xAA, 0xC5, 0x05, 0x00, 0x00, 0x00, 0x60, 0xA1, 0x06, 0xAB⟩, false) := by decide

/-- V4.27. -/
theorem test_exec_ackRun :
    judged (exec (.ackRun 1 0 0 0x1234 0x4D) (armedFor 0xC5 0x06)) =
      some (0b11111, 0, ⟨0xAA, 0xC5, 0x06, 0x01, 0x00, 0x00, 0x34, 0x12, 0x4D, 0xAB⟩, false) := by decide

/-- V4.20. -/
theorem test_exec_ackFw :
    judged (exec (.ackFw 18 11 16 0x1234 0x7A) (armedFor 0xC5 0x07)) =
      some (0b11111, 0, ⟨0xAA, 0xC5, 0x07, 0x12, 0x0B, 0x10, 0x34, 0x12, 0x7A, 0xAB⟩, false) := by decide

/-- V4.30. -/
theorem test_exec_ackDuty :
    judged (exec (.ackDuty 1 5 0 0x1234 0x54) (armedFor 0xC5 0x08)) =
      some (0b11111, 0, ⟨0xAA, 0xC5, 0x08, 0x01, 0x05, 0x00, 0x34, 0x12, 0x54, 0xAB⟩, false) := by decide

/-- V4.34. -/
theorem test_exec_ackOther :
    judged (exec (.ackOther 0x09 1 2 3 0x1234 0x55) (armedFor 0xC5 0x09)) =
      some (0b11111, 0, ⟨0xAA, 0xC5, 0x09, 0x01, 0x02, 0x03, 0x34, 0x12, 0x55, 0xAB⟩, false) := by decide

/-- V4.2 to V4.10: the verdicts of failing candidates. -/
theorem test_verdicts :
    verdictOf Config.standard ⟨0xAA, 0xC0, 0x19, 0, 0x64, 0, 0x34, 0x12, 0xC3, 0xAB⟩ 0xC5 8 = 0b11100 ∧
    verdictOf Config.standard ⟨0xAA, 0xC0, 0x19, 0, 0x65, 0, 0x34, 0x12, 0xC3, 0xAB⟩ 0xC0 0 = 0b11011 ∧
    verdictOf Config.standard ⟨0xAA, 0xC0, 0x19, 0, 0x64, 0, 0x34, 0x12, 0xC3, 0x00⟩ 0xC0 0 = 0b10111 ∧
    verdictOf Config.standard ⟨0xAA, 0xC0, 0x19, 0, 0x64, 0, 0x34, 0x12, 0xC4, 0x00⟩ 0xC0 0 = 0b10011 ∧
    verdictOf Config.standard ⟨0xAA, 0xC5, 0x02, 0, 0x01, 0, 0x34, 0x12, 0x49, 0xAB⟩ 0xC5 8 = 0b11110 ∧
    verdictOf Config.standard ⟨0xAA, 0xC1, 0x08, 0, 0x64, 0, 0x34, 0x12, 0xB2, 0xAB⟩ 0xC5 8 = 0b11101 ∧
    verdictOf Config.standard ⟨0xAB, 0xC0, 0x19, 0, 0x64, 0, 0x34, 0x12, 0xC3, 0xAB⟩ 0xC0 0 = 0b01111 ∧
    verdictOf Config.standard ⟨0, 0, 0, 0, 0, 0, 0, 0, 1, 0⟩ 0xC5 8 = 0b00000 := by decide

/-- V4.4 and V4.6 as instructions: discarded, the wait goes on. -/
theorem test_discards :
    judged (exec (.ackRun 1 1 0 0x1234 0x4E) (armedFor 0xC0 0)) = some (0b11101, 4, Window.zero, true) ∧
    judged (exec (.meas 25 100 0x1234 0xC4) (armedFor 0xC0 0)) = some (0b11011, 3, Window.zero, true) ∧
    judged (finishWindow ⟨0xAA, 0xC0, 0x19, 0, 0x64, 0, 0x34, 0x12, 0xC3, 0⟩ (armedFor 0xC0 0)) =
      some (0b10111, 2, Window.zero, true) := by decide

/-- V4.17, V4.18, V4.20. -/
theorem test_extraction :
    measPm25 ⟨0xAA, 0xC0, 0xE7, 0x03, 0x0F, 0x27, 0xFF, 0xFF, 0x1E, 0xAB⟩ = 999 ∧
    measPm10 ⟨0xAA, 0xC0, 0xE7, 0x03, 0x0F, 0x27, 0xFF, 0xFF, 0x1E, 0xAB⟩ = 9999 ∧
    tenths 65535 = (6553, 5) ∧
    fwYear Config.standard ⟨0xAA, 0xC5, 0x07, 0x12, 0x0B, 0x10, 0x34, 0x12, 0x7A, 0xAB⟩ = 18 := by decide

/-- V1.7, V1.9, V1.14. -/
theorem test_checksum :
    checksum [0x08, 0, 0, 0, 0, 0, 0, 0, 0, 0, 0, 0xFF, 0xFF] = 0x06 ∧
    checksum (List.replicate 13 0xFF) = 0xF3 ∧
    checksum [0x19, 0x00, 0x65, 0x00, 0x34, 0x12] = 0xC4 := by decide

/-- V3.3: the decoder waits in the middle of a frame. -/
theorem test_partial_frame :
    (nextOf (decRun 4 { armedFor 0xC0 0 with rx := [0x10, 0xAA, 0xC0, 0x19] })).map
      (fun s => (s.rxcnt, s.rxstate, s.trace)) = some (3, .collect, [.skip 0x10]) := by decide
/-! ### Witnesses: concrete states and operands that meet a statement's hypotheses -/

/-- The measurement frame of V4.15. -/
def sample : Window := ⟨0xAA, 0xC0, 0x19, 0x00, 0x64, 0x00, 0x34, 0x12, 0xC3, 0xAB⟩

/-- The pending state, in the middle of a request. -/
def writing (r : Request) (as : List WriteAnswer) : State :=
  { pending with phase := .writing r, answers := as }

/-- The frame of `SET_RUN 0` under `L17` (V2.52). -/
def sleepFrame : List Byte := [0xAA, 0xB4, 0x06, 0x01, 0, 0, 0, 0, 0, 0, 0, 0, 0, 0xFF, 0xFF, 0x05, 0xAB]

/-- P1 at the end of its `AWAIT`: a wait by lines after `GET_DUTY` has its frame. -/
def lineAccepted : State :=
  { State.reset with
    line := .waiting (some 8), expType := 0xC5, expCmd := 8, rspvalid := true
    rspbuf := ⟨0xAA, 0xC5, 0x08, 0x00, 0x05, 0x00, 0x34, 0x12, 0x53, 0xAB⟩, program := [.await] }

/-- After reset, with a program. -/
def programmed (p : List HostOp) : State := { State.reset with program := p }

/-- An armed decoder with one byte to take. -/
def receiving : State := { armedFor 0xC0 0 with rx := [0x55] }

/-- A host waiting for the response to `r`, with the frame accepted. -/
def accepted (r : Request) (w : Window) : State :=
  { State.reset with phase := .awaiting r, rspvalid := true, rspbuf := w }

/-- A session that may answer from a full cache. -/
def cached (p : List HostOp) : State :=
  { programmed p with
    cfg := { Config.standard with track := true }
    cache := { id := 0x1234, mode := some 1, run := some 0, duty := some 5, fw := some (18, 11, 16) } }

theorem test_witness_ChecksumIgnoresOrderAndDetectsOneChange :
    [(0x19 : Byte), 0x64].Perm [0x64, 0x19] ∧ (0x64 : Byte) ≠ 0x65 := by decide

theorem test_witness_AccumulatorReachesChecksumInAnyOrder :
    [(0x19 : Byte), 0x64, 0].Perm [0, 0x64, 0x19] := by decide

theorem test_witness_EncoderBuildsFramesWithTheInvariant :
    (zeros 12).length ≤ 12 ∧ ([] : List Byte).length ≤ 12 ∧ (0 < 12 ∧ (Layout.l17 = .l19 ∨ 0 < 10)) ∧
    (11 < 12 ∧ (Layout.l19 = .l19 ∨ 11 < 10)) := by decide

/-- Both selector clauses, with a target that is set and one that is not. -/
theorem test_witness_SelectorIsReplacedOnlyWhenZero :
    (zeros 12).length ≤ 12 ∧ (0x1234 : Half) = (if (0x1234 : Half) = 0 then 0xFFFF else 0x1234) ∧
    (0xFFFF : Half) = (if (0 : Half) = 0 then 0xFFFF else 0) ∧
    ((zeros 12).getD 10 0 = 0 ∧ (zeros 12).getD 11 0 = 0) ∧
    ¬ ((zeros 11 ++ [0x34]).getD 10 0 = 0 ∧ (zeros 11 ++ [0x34]).getD 11 0 = 0) := by decide

theorem test_witness_CommandsWithoutOperandBuildTheirFrame :
    (Instr.getMode, (0x02 : Byte)) ∈
      [(Instr.getMode, (0x02 : Byte)), (.query, 0x04), (.getRun, 0x06), (.getFw, 0x07), (.getDuty, 0x08)] ∧
    ((ready .l17).txpend = false ∧ (ready .l17).armed = false ∧ (ready .l17).cfg.layout = .l17) ∧
    ((ready .l19).txpend = false ∧ (ready .l19).armed = false ∧ (ready .l19).cfg.layout = .l19) ∧
    (pending.txpend = true ∨ pending.armed = true) ∧
    (0xFFFF : Half) = (if pending.tgt = 0 then 0xFFFF else pending.tgt) := by decide

/-- The bounds of the three ranges, and the first values above them. -/
theorem test_witness_SetCommandsBuildTheirFrameInRange :
    (Instr.setDuty, (0x08 : Byte), 30) ∈
      [(Instr.setMode, (0x02 : Byte), 1), (Instr.setRun, 0x06, 1), (Instr.setDuty, 0x08, 30)] ∧
    (1 : Byte).toNat ≤ 1 ∧ (30 : Byte).toNat ≤ 30 ∧ 1 < (2 : Byte).toNat ∧ 30 < (31 : Byte).toNat ∧
    ((ready .l17).txpend = false ∧ (ready .l17).armed = false ∧ (ready .l17).cfg.layout = .l17) ∧
    ((ready .l19).txpend = false ∧ (ready .l19).armed = false ∧ (ready .l19).cfg.layout = .l19) ∧
    (pending.txpend = true ∨ pending.armed = true) := by
  refine ⟨by simp, ?_⟩
  decide

theorem test_witness_SetIdBuildsItsFrame :
    ((ready .l17).txpend = false ∧ (ready .l17).armed = false ∧ (ready .l17).cfg.layout = .l17) ∧
    (1 : Half) ≠ 0 ∧ (0 : Half) = 0 ∧ (0xFFFF : Half) = (if (ready .l17).tgt = 0 then 0xFFFF else (ready .l17).tgt) ∧
    ((ready .l19).txpend = false ∧ (ready .l19).armed = false ∧ (ready .l19).cfg.layout = .l19) ∧
    (pending.txpend = true ∨ pending.armed = true) := by decide

theorem test_witness_RawAndEncodeBuildAnyFrame :
    (zeros 12).length ≤ 12 ∧ State.reset.txpend = false ∧ State.reset.armed = false ∧
    12 < (zeros 13).length ∧ (pending.txpend = true ∨ pending.armed = true) ∧
    (0xFFFF : Half) = (if State.reset.tgt = 0 then 0xFFFF else State.reset.tgt) := by decide

theorem test_witness_SetIdZeroIsSetIdTargetUnderL17 :
    ((ready .l17).txpend = false ∧ (ready .l17).armed = false ∧ (ready .l17).tgt ≠ 0 ∧
      (ready .l17).cfg.layout = .l17) ∧
    ((ready .l19).txpend = false ∧ (ready .l19).armed = false ∧ (ready .l19).tgt ≠ 0 ∧
      (ready .l19).cfg.layout = .l19) := by decide

theorem test_witness_DecodeCommandRecoversCommandAndArguments :
    (zeros 12).length ≤ 12 ∧
    (Layout.l19 = .l19 ∨ ¬ ((zeros 12).getD 10 0 = 0 ∧ (zeros 12).getD 11 0 = 0)) ∧
    (Layout.l17 = .l17 ∧ (zeros 12).getD 10 0 = 0 ∧ (zeros 12).getD 11 0 = 0) := by decide

/-- Prefixes at both ends of their range: nothing of the frame, and all of it. -/
theorem test_witness_TxWriteSendsTheFrameOrKeepsItPending :
    pending.txpend = true ∧ State.reset.txpend = false ∧ [] <+: pending.txbuf ∧
    pending.txbuf <+: pending.txbuf ∧
    (let s : State := { pending with program := [.txWrite] };
      s.schedule = [] ∧ s.phase = .idle ∧ acceptedLine s = none ∧ s.program = .txWrite :: [] ∧ s.txpend = true ∧ s.answers = []) ∧
    (let s : State := { pending with program := [.txWrite], answers := [.ok] };
      s.schedule = [] ∧ s.phase = .idle ∧ acceptedLine s = none ∧ s.program = .txWrite :: [] ∧ s.txpend = true ∧
      s.answers = .ok :: []) ∧
    (programmed [.txWrite]).program = .txWrite :: [] ∧ (programmed [.txWrite]).txpend = false ∧
    issuedInstruction .l17 pending.txbuf ≠ .ok (.setRun 0) ∧
    issuedInstruction .l17 sleepFrame = .ok (.setRun 0) := by decide

theorem test_witness_WriteRetryResendsTheIdenticalFrame :
    (writing .getDuty [.error 0, .error 17, .ok]).schedule = [] ∧
    (writing .getDuty [.error 0, .error 17, .ok]).phase = .writing .getDuty ∧
    (writing .getDuty [.error 0, .error 17, .ok]).txpend = true ∧
    (writing .getDuty [.error 0, .error 17, .ok]).answers = [0, 17].map WriteAnswer.error ++ WriteAnswer.ok :: [] := by
  decide

theorem test_witness_SetTgtTakesEffectAtTheNextEncode :
    ((programmed [.setTgt 0x1234]).schedule = [] ∧ (programmed [.setTgt 0x1234]).phase = .idle ∧
      acceptedLine (programmed [.setTgt 0x1234]) = none ∧
      (programmed [.setTgt 0x1234]).program = .setTgt 0x1234 :: []) ∧
    (let s : State := { State.reset with tgt := 0x1234 };
      s.txpend = false ∧ s.armed = false ∧ s.cfg.layout = .l17 ∧ s.tgt = 0x1234) := by decide

theorem test_witness_ArmLatchesTheExpectation :
    ((0xC5 : Byte) = 0xC0 ∨ (0xC5 : Byte) = 0xC5) ∧ State.reset.armed = false ∧ State.reset.txpend = false ∧
    ((0xC1 : Byte) ≠ 0xC0 ∧ (0xC1 : Byte) ≠ 0xC5) ∧
    ((armedFor 0xC0 0).armed = true ∨ (armedFor 0xC0 0).txpend = true) ∧
    (let s := programmed [.arm 0xC5 8];
      s.schedule = [] ∧ s.phase = .idle ∧ acceptedLine s = none ∧ s.program = .arm 0xC5 8 :: [] ∧
      (∀ w, s.line ≠ .written w)) ∧
    (let s : State := { State.reset with line := .written 8 };
      s.line = .written 8 ∧ ∀ w, s.line = .written w → some (8 : Byte) = some w) := by
  refine ⟨by decide, by decide, by decide, by decide, by decide,
    ⟨rfl, rfl, rfl, rfl, fun _ h => nomatch h⟩, rfl, fun _ h => by cases h; rfl⟩

theorem test_witness_AwaitHoldsTheProgramWhileArmed :
    (let s : State := { receiving with program := [.await] };
      s.phase = .idle ∧ s.program = .await :: [] ∧ s.armed = true ∧ s.schedule = [] ∧ s.rx = 0x55 :: []) ∧
    ((programmed [.await]).phase = .idle ∧ (programmed [.await]).program = .await :: [] ∧
      (programmed [.await]).armed = false ∧ acceptedLine (programmed [.await]) = none) := by decide

theorem test_witness_HuntSkipsToTheHeadByte :
    receiving.rxstate = .hunt ∧ (0xAB : Byte) ≠ 0xAA ∧ (0xAA : Byte) = 0xAA := by decide

/-- The first and the last position a byte is stored at before the tenth, and the tenth. -/
theorem test_witness_CollectStoresAnyByteAndTheTenthCompletes :
    (let s : State := { nineIn sample with rxcnt := 1 };
      s.rxstate = .collect ∧ s.rxcnt.val < 9 ∧ (2 : Fin 10).val = s.rxcnt.val + 1) ∧
    (let s : State := { nineIn sample with rxcnt := 8 };
      s.rxstate = .collect ∧ s.rxcnt.val < 9 ∧ (9 : Fin 10).val = s.rxcnt.val + 1) ∧
    ((nineIn sample).rxstate = .collect ∧ (nineIn sample).rxcnt = 9 ∧ (nineIn sample).armed = true) := by decide

theorem test_witness_ByteStepsCutTheFrameThatScanCuts :
    (let s : State := { armedFor 0xC0 0 with rx := [0x01, 0xAB] ++ sample.toList ++ [0x77] };
      s.armed = true ∧ s.rxstate = .hunt ∧ s.rxcnt = 0 ∧ (∀ b ∈ [(0x01 : Byte), 0xAB], b ≠ 0xAA) ∧
        sample.b0 = 0xAA ∧ s.rx = [0x01, 0xAB] ++ sample.toList ++ [0x77]) := by decide

/-- A stream without a head byte, and one that ends in mid-frame. -/
theorem test_witness_ScanWithoutFrameLeavesTheDecoderWaiting :
    (receiving.armed = true ∧ receiving.rxstate = .hunt ∧ receiving.rxcnt = 0 ∧
      scanResponse receiving.rx = .resynchronizing) ∧
    (let s : State := { armedFor 0xC0 0 with rx := [0xAA, 0xC0, 0x19, 0, 0x64, 0, 0x34, 0x12, 0xC3] };
      s.armed = true ∧ s.rxstate = .hunt ∧ s.rxcnt = 0 ∧ scanResponse s.rx = .resynchronizing) := by decide

theorem test_witness_TwoFramesAmongGarbageAreFoundInOrder :
    (∀ b ∈ [(0x01 : Byte), 0x02, 0xAB], b ≠ 0xAA) ∧ (∀ b ∈ [(0x55 : Byte), 0xC0, 0x00], b ≠ 0xAA) ∧
    sample.b0 = 0xAA := by decide

theorem test_witness_DoubledHeadSwallowsTheNextFrame : sample.b0 = 0xAA := by decide

theorem test_witness_UnarmedDecoderTakesNothing :
    State.reset.armed = false ∧ responseWindow (.meas 25 100 0x1234 0xC3) = some sample := by decide

theorem test_witness_FailedReadChangesNothing :
    ({ receiving with schedule := [.readFails, .dec] } : State).schedule = .readFails :: [.dec] := by decide

theorem test_witness_RunningTheDecodedWindowIsCompletingIt : (armedFor 0xC0 0).armed = true := by decide

theorem test_witness_VerdictEvaluatesAllFiveClauses :
    (armedFor 0xC5 8).cfg = Config.standard ∧ (armedFor 0xC5 8).expType = 0xC5 ∧
    (armedFor 0xC5 8).expCmd = 8 ∧ (armedFor 0xC5 8).armed = true := by decide

/-- One candidate for each of the five reasons. -/
theorem test_witness_FailingCandidateIsDiscardedWithItsReason :
    (armedFor 0xC5 8).armed = true ∧
    (let reason := fun (w : Window) (s : State) => (if w.b0 ≠ 0xAA then (1 : BitVec 3)
      else if w.b9 ≠ 0xAB then 2
      else if checksum [w.b2, w.b3, w.b4, w.b5, w.b6, w.b7] ≠ w.b8 then 3
      else if w.b1 ≠ s.expType then 4
      else if s.expType = 0xC5 ∧ w.get (2 + s.cfg.ackOffCmd) ≠ s.expCmd then 5 else 0);
    reason Window.zero (armedFor 0xC5 8) = 1 ∧
    reason { sample with b9 := 0 } (armedFor 0xC0 0) = 2 ∧
    reason { sample with b8 := 0xC4 } (armedFor 0xC0 0) = 3 ∧
    reason sample (armedFor 0xC5 8) = 4 ∧
    reason ⟨0xAA, 0xC5, 0x02, 0, 1, 0, 0x34, 0x12, 0x49, 0xAB⟩ (armedFor 0xC5 8) = 5) := by decide

theorem test_witness_AwaitedMeasurementIsAcceptedAndDelivered :
    sample = ⟨0xAA, 0xC0, lo8 25, hi8 25, lo8 100, hi8 100, lo8 0x1234, hi8 0x1234, 0xC3, 0xAB⟩ ∧
    (armedFor 0xC0 0).armed = true ∧ (armedFor 0xC0 0).expType = 0xC0 ∧
    (0xC3 : Byte) = lo8 25 + hi8 25 + lo8 100 + hi8 100 + lo8 0x1234 + hi8 0x1234 := by decide

theorem test_witness_AwaitedValueAckIsAcceptedAndDelivered :
    (Instr.ackDuty, (0x08 : Byte)) ∈ [(Instr.ackMode, (0x02 : Byte)), (Instr.ackRun, 0x06), (Instr.ackDuty, 0x08)] ∧
    (let w : Window := ⟨0xAA, 0xC5, 0x08, 0x01, 0x05, 0x00, lo8 0x1234, hi8 0x1234, 0x54, 0xAB⟩;
      (armedFor 0xC5 8).armed = true ∧ (armedFor 0xC5 8).expType = 0xC5 ∧
      w.get (2 + (armedFor 0xC5 8).cfg.ackOffCmd) = (armedFor 0xC5 8).expCmd) ∧
    (0x54 : Byte) = 0x08 + 0x01 + 0x05 + 0x00 + lo8 0x1234 + hi8 0x1234 := by
  refine ⟨by simp, ?_⟩
  decide

theorem test_witness_AwaitedFirmwareAckIsAcceptedAndDelivered :
    (let w : Window := ⟨0xAA, 0xC5, 0x07, 18, 11, 16, lo8 0x1234, hi8 0x1234, 0x7A, 0xAB⟩;
      (armedFor 0xC5 7).armed = true ∧ (armedFor 0xC5 7).expType = 0xC5 ∧
      w.get (2 + (armedFor 0xC5 7).cfg.ackOffCmd) = (armedFor 0xC5 7).expCmd) ∧
    (0x7A : Byte) = 0x07 + 18 + 11 + 16 + lo8 0x1234 + hi8 0x1234 := by decide

/-- All three clauses: awaited, another echo awaited, a measurement awaited. -/
theorem test_witness_AwaitedIdOrUnnamedAckIsAccepted :
    (let w : Window := ⟨0xAA, 0xC5, 0x09, 1, 2, 3, lo8 0x1234, hi8 0x1234, 0x55, 0xAB⟩;
      (armedFor 0xC5 9).armed = true ∧ (0x55 : Byte) = 0x09 + 1 + 2 + 3 + lo8 0x1234 + hi8 0x1234 ∧
      ((armedFor 0xC5 9).expType = 0xC5 ∧
        w.get (2 + (armedFor 0xC5 9).cfg.ackOffCmd) = (armedFor 0xC5 9).expCmd) ∧
      ((armedFor 0xC5 5).expType = 0xC5 ∧
        w.get (2 + (armedFor 0xC5 5).cfg.ackOffCmd) ≠ (armedFor 0xC5 5).expCmd) ∧
      (armedFor 0xC0 9).expType = 0xC0) ∧
    (0x4B : Byte) = 0x05 + 0 + 0 + 0 + lo8 0x1234 + hi8 0x1234 := by decide

theorem test_witness_NamesAndTenthsOfDeliveredValues : 1 < (2 : Byte).toNat ∧ 1 < (255 : Byte).toNat := by
  decide

/-- A getter, a setter at its bound, and `SET_ID` in both layouts. -/
theorem test_witness_DecodeAfterEncodeNamedCommands :
    (Instr.setDuty 31).wf = true ∧ responseWindow (.setDuty 31) = none ∧
    ¬ (Layout.l17 = .l17 ∧ Instr.setDuty 31 = .setId 0) ∧
    (Instr.setId 1).wf = true ∧ responseWindow (.setId 1) = none ∧
    ¬ (Layout.l17 = .l17 ∧ Instr.setId 1 = .setId 0) ∧ ¬ (Layout.l19 = .l17 ∧ Instr.setId 0 = .setId 0) := by
  decide

theorem test_witness_DecodeAfterEncodeNamedCommands_not_raw :
    ∀ c args, Instr.setDuty 31 ≠ .raw c args := by
  intro c args h
  cases h

theorem test_witness_DecodeAfterEncodeResponses :
    (Instr.ackOther 4 0 0 0 0x1234 0x4A).wf = true ∧
    ∃ w, responseWindow (.ackOther 4 0 0 0 0x1234 0x4A) = some w :=
  ⟨by decide, _, rfl⟩

/-- V2.15, and V2.30, which only `RAW` reads. -/
theorem test_witness_EncodeAfterDecodeCommandFrames :
    decodeCommand .l17 pending.txbuf = .ok (.getDuty, 0xFFFF) ∧ (0xFFFF : Half) ≠ 0 ∧
    decodeCommand .l17 ([0xAA, 0xB4, 0xFF] ++ List.replicate 12 0xFF ++ [0xF3, 0xAB]) =
      .ok (.raw 0xFF (List.replicate 12 0xFF), 0xFFFF) := by decide

theorem test_witness_EncodeAfterDecodeResponseWindows :
    decodeResponse sample = .ok (.meas 25 100 0x1234 0xC3) := by decide

theorem test_witness_DecodedRowIsTheResponseForm :
    decodeResponse ⟨0xAA, 0xC5, 0x04, 0, 0, 0, 0x34, 0x12, 0x4A, 0xAB⟩ = .ok (.ackOther 4 0 0 0 0x1234 0x4A) := by
  decide

theorem test_witness_StepRunsTheIssuedCommand :
    (let s := programmed [.issue pending.txbuf];
      s.phase = .idle ∧ acceptedLine s = none ∧ s.program = .issue pending.txbuf :: [] ∧ s.schedule = [] ∧
      issuedInstruction s.cfg.layout pending.txbuf = .ok .getDuty ∧
      decodeCommand s.cfg.layout pending.txbuf = .ok (.getDuty, 0xFFFF) ∧
      ({ s with schedule := [.host] } : State).schedule = .host :: []) := by decide

theorem test_witness_StepRunsTheReceivedResponse :
    (nineIn sample).armed = true ∧ (nineIn sample).rxstate = .collect ∧ (nineIn sample).rxcnt = 9 ∧
    (nineIn sample).rx = 0xAB :: [] ∧
    decodeResponse { (nineIn sample).rxbuf with b9 := 0xAB } = .ok (.meas 25 100 0x1234 0xC3) ∧
    (nineIn sample).schedule = [] ∧ hostReady (nineIn sample) = false ∧
    ({ nineIn sample with schedule := [.dec] } : State).schedule = .dec :: [] := by decide

/-- A state in the middle of a frame keeps the invariant, and its step answers a next state; the
transport is unbounded and no reset is scheduled. -/
theorem test_witness_inv : Inv (nineIn sample) :=
  ⟨by decide, by decide, by decide, by decide, by decide, by decide, by decide,
    (fun h => absurd h (by decide)), by decide, (fun _ h => nomatch h), (fun _ h => nomatch h)⟩

/-- The wait by lines of P1 keeps the invariant. -/
theorem test_witness_inv_line : Inv lineAccepted :=
  ⟨by decide, by decide, by decide, by decide, by decide, by decide, by decide,
    (fun h => absurd h (by decide)), by decide, (fun _ h => nomatch h), (fun _ _ => ⟨rfl, .inr rfl⟩)⟩

theorem test_witness_InvariantIsKeptByEveryStep :
    ∃ t, step (nineIn sample) = .next t := ⟨_, rfl⟩

theorem test_witness_EveryReceivedByteIsAccountedForOnce :
    (nineIn sample).cfg.rxFifoDepth = none ∧ (nineIn sample).schedule.head? ≠ some .reset := by decide

theorem test_witness_ReasonIsNeverBadHead :
    (nineIn sample).reason ≠ 1 ∧ (nineIn sample).reason ≠ 6 ∧ (nineIn sample).reason ≠ 7 := by decide

theorem test_witness_OnlySetTgtAndResetWriteTgt : ∃ t, step (programmed [.setTgt 7]) = .next t := ⟨_, rfl⟩

theorem test_witness_OnlyAcceptanceOrResetEndsAWait :
    (nineIn sample).armed = true ∧ (nextOf (step (nineIn sample))).map State.armed = some false := by decide

theorem test_witness_ArrivalAndByteStepCommute :
    receiving.cfg.rxFifoDepth = none ∧ receiving.rx ≠ [] := by decide

/-- A transport with room for one byte more, and the same transport when it is full. -/
theorem test_witness_ArrivalAppendsOrOverflows :
    (let s : State := { State.reset with cfg := { Config.standard with rxFifoDepth := some 2 }, rx := [1] };
      s.cfg.rxFifoDepth = some 2 ∧ s.rx.length < 2 ∧ 2 ≤ ({ s with rx := [1, 2] } : State).rx.length) := by
  decide

theorem test_witness_ResetRestoresTheStatedValues :
    ({ pending with schedule := [.reset, .host] } : State).schedule = .reset :: [.host] := by decide

/-- One refusal of each cause. -/
theorem test_witness_EveryRefusalHasItsCause :
    refusalOf (step { programmed [.call .query] with txpend := true }) = some .overlappingRequest ∧
    refusalOf (step (programmed [.encode 8 (zeros 13)])) = some .tooManyArgs ∧
    refusalOf (step (programmed [.call (.setMode 2)])) = some .operandRange ∧
    refusalOf (step (programmed [.arm 0xC1 0])) = some .badExpectation ∧
    refusalOf (step (programmed [.txWrite])) = some .nothingToSend ∧
    refusalOf (step (writing .getDuty [.short 3])) = some .shortWrite ∧
    refusalOf (step (programmed [.issue []])) = some (.notACommandFrame .badLength) := by decide

theorem test_witness_PollArmsForAMeasurement :
    (let s := programmed [.call .poll];
      s.schedule = [] ∧ s.phase = .idle ∧ acceptedLine s = none ∧ s.program = .call .poll :: [] ∧ s.armed = false ∧
      s.txpend = false) := by decide

theorem test_witness_RequestsArmTheExpectationOfTheirCommand :
    (let s : State := { State.reset with phase := .arming .getId };
      s.armed = false ∧ s.txpend = false ∧ s.phase = .arming .getId ∧ Request.getId ≠ .poll ∧
      Request.getId ≠ .setRun 0 ∧ issuedByte .getId = some 7 ∧ Request.getId ≠ .query) ∧
    (let s : State := { State.reset with phase := .arming .query };
      s.armed = false ∧ s.txpend = false ∧ s.phase = .arming .query ∧ Request.query ≠ .poll ∧
      Request.query ≠ .setRun 0 ∧ issuedByte .query = some 4) := by decide

theorem test_witness_AcceptedResponseRefreshesTheCache :
    (accepted .poll sample).phase = .awaiting .poll ∧ (accepted .poll sample).armed = false ∧
    (accepted .poll sample).rspvalid = true ∧
    (accepted .getFirmware sample).phase = .awaiting .getFirmware ∧
    (accepted (.setId 7) sample).phase = .awaiting (.setId 7) ∧
    (accepted (.setMode 1) sample).phase = .awaiting (.setMode 1) ∧
    lineAccepted.phase = .idle ∧ lineAccepted.line = .waiting (some 8) ∧ lineAccepted.armed = false ∧
    lineAccepted.rspvalid = true ∧ lineAccepted.expType = 0xC5 ∧ lineAccepted.expCmd = 8 ∧
    (let s : State := { lineAccepted with line := .waiting none, expType := 0xC0, rspbuf := sample };
      s.expType = 0xC0 ∧ s.line = .waiting none) := by decide

/-- P1: the host ends with `S.DUTY = 5`, `S.ID = 0x1234` and returns 5, and `AWAIT` is passed next. -/
theorem test_line_wait_runs_on_accept :
    (nextOf (step lineAccepted)).map (fun t => (t.cache.duty, t.cache.id, t.returned, t.line, t.program)) =
      some (some 5, 0x1234, [.value 5], .idle, [.await]) := by decide

/-- P4: after the line `TXWRITE` of the sleep frame the host has `S.RUN = 0`, with nothing armed. -/
theorem test_line_sleep_ends_at_the_write :
    (nextOf (step { State.reset with
      txpend := true, txbuf := sleepFrame, program := [.txWrite], answers := [.ok] })).map
        (fun t => (t.cache.run, t.armed, t.line)) = some (some 0, false, .idle) := by decide

theorem test_witness_SleepReturnsWithoutAnyRead :
    (let s : State := { programmed [.call .sleep] with answers := [.error 5, .ok] };
      s.schedule = [] ∧ s.phase = .idle ∧ acceptedLine s = none ∧ s.program = .call .sleep :: [] ∧
      s.answers = [5].map WriteAnswer.error ++ WriteAnswer.ok :: [] ∧
      s.txpend = false ∧ s.armed = false) := by decide

/-- V5.4: the second call of `get_mode`; the other getters with their fields. -/
theorem test_witness_CachedGetterLeavesTheBlockAlone :
    (let s := cached [.call .getMode];
      s.schedule = [] ∧ s.phase = .idle ∧ acceptedLine s = none ∧ s.program = .call .getMode :: [] ∧ s.cfg.track = true ∧
      s.cache.mode = some 1 ∧ s.cache.run = some 0 ∧ s.cache.duty = some 5 ∧
      s.cache.fw = some (18, 11, 16) ∧ s.cache.id ≠ 0xFFFF) := by decide

/-- V5.5 and V5.7: caching off, and caching on with the field unknown. -/
theorem test_witness_UncachedRequestEncodesItsCommand :
    (let s := programmed [.call .getMode];
      s.schedule = [] ∧ s.phase = .idle ∧ acceptedLine s = none ∧ s.program = .call .getMode :: [] ∧ s.txpend = false ∧
      s.armed = false ∧ s.cfg.track = false) ∧
    (let s := programmed [.call .getId];
      s.cache.id = 0xFFFF ∧ s.cache.run = none ∧ s.cache.duty = none ∧ s.cache.fw = none) ∧
    (programmed [.call (.setDuty 30)]).program = .call (.setDuty 30) :: [] ∧ 30 ≤ 30 ∧
    (programmed [.call (.setId 0xFFFF)]).program = .call (.setId 0xFFFF) :: [] ∧ 0xFFFF ≤ 0xFFFF ∧
    (programmed [.call (.setRun 1)]).program = .call (.setRun 1) :: [] ∧ (1 : Byte).toNat ≤ 1 ∧
    (programmed [.call (.setMode 2)]).program = .call (.setMode 2) :: [] ∧ 1 < (2 : Byte).toNat ∧
    (let s : State := { pending with program := [.call .query] };
      s.schedule = [] ∧ s.phase = .idle ∧ acceptedLine s = none ∧ s.program = .call .query :: [] ∧ s.txpend = true) := by decide

/-- V5.6, at the first values above the two bounds. -/
theorem test_witness_RejectedInputIsAUsageErrorOnly :
    (let s := programmed [.call (.setDuty 31)];
      s.schedule = [] ∧ s.phase = .idle ∧ acceptedLine s = none ∧ s.program = .call (.setDuty 31) :: [] ∧ 30 < 31) ∧
    0xFFFF < 65536 := by decide

theorem test_witness_OnlyHostTurnsRefuseAndBlockedStandsStill :
    (State.reset.schedule.head? ≠ some .host ∧ hostReady State.reset = false) ∧
    (State.reset.schedule = [] ∧ State.reset.feed = [] ∧ State.reset.txpend = false ∧
      State.reset.armed = false ∧ State.reset.phase = .idle ∧
      acceptedLine State.reset = none ∧ State.reset.program = []) ∧
    (let s : State := { armedFor 0xC0 0 with phase := .awaiting .poll };
      s.schedule = [] ∧ s.feed = [] ∧ s.phase = .awaiting .poll ∧ s.armed = true ∧ s.rx = []) ∧
    ((writing .query []).schedule = [] ∧ (writing .query []).feed = [] ∧
      (writing .query []).phase = .writing .query ∧ (writing .query []).answers = [] ∧
      (writing .query []).armed = false) := by decide

end Sys2Proof.Tests
end

section
/-!
What the decoder answers on a frame, by the frame's bytes and its row of the opcode table
(30_encoding.md sections 3 and 6).
-/

namespace Sys2Proof

/-! ### Command frames -/

/-- The length and the fixed bytes of a command frame (30_encoding.md R61, R78); its checksum byte may be
any. -/
structure CommandShape (l : Layout) (f : List Byte) : Prop where
  length : f.length = cmdLen l
  head : byteAt f 0 = headByte
  marker : byteAt f 1 = markerByte
  tail : byteAt f (tailOff l) = tailByte

/-- A command frame is longer than a response frame in both layouts (30_encoding.md R78). -/
theorem cmdLen_ne_rspLen (l : Layout) : cmdLen l ≠ rspLen := by
  cases l <;> decide

/-- A frame of command length goes to the command decoder (30_encoding.md R78). -/
theorem decode_of_length_eq_cmdLen {l : Layout} {f : List Byte} (h : f.length = cmdLen l) :
    decode l f = (decodeCommand l f).map Prod.fst :=
  if_neg (h ▸ cmdLen_ne_rspLen l)

/-- The fields are read off every frame of the right shape (41_command_encoder.md R115). -/
theorem frameFields_of_shape {l : Layout} {f : List Byte} (h : CommandShape l f) :
    frameFields l f = .ok
      { cmd := byteAt f 2, args := bytesFromTo f 3 14,
        sel := u16le (byteAt f (selOff l)) (byteAt f (selOff l + 1)) } := by
  simp [frameFields, h.length, h.head, h.marker, h.tail]

/-- With the shape and the checksum right, the instruction is the one of the row and the selector the
one in the frame (30_encoding.md R82; 41_command_encoder.md R115). -/
theorem decodeCommand_of_shape {l : Layout} {f : List Byte} (h : CommandShape l f)
    (hsum : byteAt f (chkOff l) = commandChecksum l f) :
    decodeCommand l f = .ok
      (readCommand f (cmdFormOf l f), u16le (byteAt f (selOff l)) (byteAt f (selOff l + 1))) := by
  simp [decodeCommand, commandFields, frameFields_of_shape h, hsum]

/-- A frame of the right shape whose checksum byte is wrong is refused for that reason
(30_encoding.md R82; 41_command_encoder.md R115). -/
theorem decodeCommand_badChecksum {l : Layout} {f : List Byte} (h : CommandShape l f)
    (hsum : byteAt f (chkOff l) ≠ commandChecksum l f) :
    decodeCommand l f = .error .badChecksum := by
  simp [decodeCommand, commandFields, frameFields_of_shape h, hsum]

/-- A command frame decodes to the operands of its row. -/
theorem decode_commandFrame {l : Layout} {f : List Byte} {g : CmdForm} (h : CommandShape l f)
    (hsum : byteAt f (chkOff l) = commandChecksum l f) (hrow : cmdFormOf l f = g) :
    decode l f = .ok (readCommand f g) := by
  rw [decode_of_length_eq_cmdLen h.length, decodeCommand_of_shape h hsum, hrow]
  rfl

/-- The decoder refuses a command frame with a wrong checksum by name. -/
theorem decode_badChecksum {l : Layout} {f : List Byte} (h : CommandShape l f)
    (hsum : byteAt f (chkOff l) ≠ commandChecksum l f) : decode l f = .error .badChecksum := by
  rw [decode_of_length_eq_cmdLen h.length, decodeCommand_badChecksum h hsum]
  rfl

/-! ### Response frames -/

/-- A window with head, tail and a known type decodes to the fields of its row (30_encoding.md R74,
R77). -/
theorem decodeResponse_of_row {w : Window} {g : RspForm} (h0 : w.b0 = headByte) (h9 : w.b9 = tailByte)
    (ht : w.b1 = typeMeas ∨ w.b1 = typeAck) (hrow : rspFormOf w = g) :
    decodeResponse w = .ok (readResponse w g) := by
  have known : ¬ (w.b1 ≠ typeMeas ∧ w.b1 ≠ typeAck) := by tauto
  rw [decodeResponse, if_neg (not_not_intro h0), if_neg (not_not_intro h9), if_neg known, hrow]

/-- Ten bytes go to the response decoder, in every layout (30_encoding.md R78). -/
theorem decode_window (l : Layout) (w : Window) : decode l w.toList = decodeResponse w := rfl

/-- An ack frame decodes to the fields of its row (30_encoding.md R64, R74). -/
theorem decode_ackWindow (l : Layout) {cmd p1 p2 p3 : Byte} {id : Half} {chk : Byte} {g : RspForm}
    (hrow : rspFormOf (ackWindow cmd p1 p2 p3 id chk) = g) :
    decode l (ackWindow cmd p1 p2 p3 id chk).toList =
      .ok (readResponse (ackWindow cmd p1 p2 p3 id chk) g) :=
  (decode_window l _).trans (decodeResponse_of_row rfl rfl (.inr rfl) hrow)

/-! ### The frames written out -/

/-- Settles O34: each frame has the shape of its direction, the row that its fixed bytes name, and (for a
command) a checksum byte that is right, or wrong in the last frame. -/
theorem writtenFramesDecodeToTheirInstruction :
    Obligations.WrittenFramesDecodeToTheirInstruction := by
  unfold Obligations.WrittenFramesDecodeToTheirInstruction
  refine ⟨?setMode, ?setId, ?setDuty, ?ackRun, ?ackOther, ?badChecksum⟩
  case setMode => exact decode_commandFrame (g := .setMode) ⟨rfl, rfl, rfl, rfl⟩ (by decide) (by decide)
  case setId => exact decode_commandFrame (g := .setId) ⟨rfl, rfl, rfl, rfl⟩ (by decide) (by decide)
  case setDuty => exact decode_commandFrame (g := .setDuty) ⟨rfl, rfl, rfl, rfl⟩ (by decide) (by decide)
  case ackRun => exact decode_ackWindow .l17 (cmd := 0x06) (id := 0x1234) (g := .ackRun) (by decide)
  case ackOther => exact decode_ackWindow .l17 (cmd := 0x09) (id := 0x1234) (g := .ackOther) (by decide)
  case badChecksum => exact decode_badChecksum ⟨rfl, rfl, rfl, rfl⟩ (by decide)

end Sys2Proof
end

section
/-!
The checksum engine: its value, its value on repeated bytes, and the corner cases of R90
(40_checksum.md section 1).
-/

namespace Sys2Proof

/-- The checksum's value is the byte sum modulo 256 (40_checksum.md R90). -/
theorem checksum_toNat_eq_sum_mod (bs : List Byte) :
    (checksum bs).toNat = (bs.map BitVec.toNat).sum % 256 := by
  rw [checksum_toNat, byteSum_eq_sum]

/-- `n` equal bytes: the product modulo 256, from which R90's corner cases are read off. -/
theorem checksum_replicate (n : Nat) (b : Byte) :
    checksum (List.replicate n b) = BitVec.ofNat 8 (n * b.toNat) := by
  apply BitVec.eq_of_toNat_eq
  rw [checksum_toNat_eq_sum_mod, List.map_replicate, List.sum_replicate, smul_eq_mul,
    BitVec.toNat_ofNat]

/-- Settles O1: the general clause is the checksum's value; the repeated bytes are products, and the worked
example is one evaluated frame. -/
theorem checksumIsByteSumMod256 : Obligations.ChecksumIsByteSumMod256 := by
  unfold Obligations.ChecksumIsByteSumMod256
  refine ⟨checksum_toNat_eq_sum_mod, checksum_nil, ?ones, ?thirteenFF, ?sixFF, ?workedExample⟩
  case ones => exact checksum_replicate 256 0x01
  case thirteenFF => exact checksum_replicate 13 0xFF
  case sixFF => exact checksum_replicate 6 0xFF
  case workedExample => decide

end Sys2Proof
end

section
/-!
The frames of the command encoder, byte by byte, for every argument list, and what `SET_ID`, `RAW` and the
operation `ENCODE` do with them (41_command_encoder.md R100 to R102, R106).
-/

namespace Sys2Proof

/-! ### The selector of an `L17` frame -/

/-- Two zero bytes in the selector's place are replaced by the target (41_command_encoder.md R101). -/
theorem selectorL17_of_zero {tgt : Half} {a10 a11 : Byte} (h : a10 = 0 ∧ a11 = 0) :
    selectorL17 tgt a10 a11 = (lo8 (targetOrAny tgt), hi8 (targetOrAny tgt)) := if_pos h

/-- Any other two bytes in the selector's place are left alone (41_command_encoder.md R101). -/
theorem selectorL17_of_not_zero {tgt : Half} {a10 a11 : Byte} (h : ¬ (a10 = 0 ∧ a11 = 0)) :
    selectorL17 tgt a10 a11 = (a10, a11) := if_neg h

/-! ### Every byte of a frame -/

/-- The padded argument region, written out (30_encoding.md R66). -/
theorem padArgs_eq_getD (args : List Byte) :
    padArgs args = [args.getD 0 0, args.getD 1 0, args.getD 2 0, args.getD 3 0, args.getD 4 0,
      args.getD 5 0, args.getD 6 0, args.getD 7 0, args.getD 8 0, args.getD 9 0, args.getD 10 0,
      args.getD 11 0] := by
  have region := padArgs_getD args
  obtain ⟨a0, a1, a2, a3, a4, a5, a6, a7, a8, a9, a10, a11, h⟩ :=
    eq_of_length_twelve (padArgs args) (padArgs_length args)
  rw [h] at region ⊢
  simp only [← region, Nat.reduceLT]
  rfl

/-- The frame of layout `L17` for any arguments (30_encoding.md R60, R66). -/
theorem buildFrame_l17_getD (tgt : Half) (c : Byte) (args : List Byte) :
    let sel := selectorL17 tgt (args.getD 10 0) (args.getD 11 0)
    buildFrame .l17 tgt c args =
      [0xAA, 0xB4, c, args.getD 0 0, args.getD 1 0, args.getD 2 0, args.getD 3 0, args.getD 4 0,
        args.getD 5 0, args.getD 6 0, args.getD 7 0, args.getD 8 0, args.getD 9 0, sel.1, sel.2,
        checksum [c, args.getD 0 0, args.getD 1 0, args.getD 2 0, args.getD 3 0, args.getD 4 0,
          args.getD 5 0, args.getD 6 0, args.getD 7 0, args.getD 8 0, args.getD 9 0, sel.1, sel.2],
        0xAB] := by
  rw [← buildFrame_padArgs, padArgs_eq_getD, buildFrame_l17]

/-- The frame of layout `L19` for any arguments (30_encoding.md R60, R66). -/
theorem buildFrame_l19_getD (tgt : Half) (c : Byte) (args : List Byte) :
    let t := targetOrAny tgt
    buildFrame .l19 tgt c args =
      [0xAA, 0xB4, c, args.getD 0 0, args.getD 1 0, args.getD 2 0, args.getD 3 0, args.getD 4 0,
        args.getD 5 0, args.getD 6 0, args.getD 7 0, args.getD 8 0, args.getD 9 0, args.getD 10 0,
        args.getD 11 0, lo8 t, hi8 t,
        checksum [c, args.getD 0 0, args.getD 1 0, args.getD 2 0, args.getD 3 0, args.getD 4 0,
          args.getD 5 0, args.getD 6 0, args.getD 7 0, args.getD 8 0, args.getD 9 0, args.getD 10 0,
          args.getD 11 0, lo8 t, hi8 t],
        0xAB] := by
  rw [← buildFrame_padArgs, padArgs_eq_getD, buildFrame_l19]

section Bytes

variable (l : Layout) (tgt : Half) (c : Byte) (args : List Byte)

/-- Head, class marker, command byte and tail stand at their places (30_encoding.md R61). -/
theorem buildFrame_fixedBytes :
    byteAt (buildFrame l tgt c args) 0 = 0xAA ∧ byteAt (buildFrame l tgt c args) 1 = 0xB4 ∧
    byteAt (buildFrame l tgt c args) 2 = c ∧ byteAt (buildFrame l tgt c args) (tailOff l) = 0xAB := by
  cases l with
  | l17 => rw [buildFrame_l17_getD]; exact ⟨rfl, rfl, rfl, rfl⟩
  | l19 => rw [buildFrame_l19_getD]; exact ⟨rfl, rfl, rfl, rfl⟩

/-- The checksum byte covers the frame from the command byte to `SUM_LAST` (30_encoding.md R62). -/
theorem buildFrame_checksumByte :
    byteAt (buildFrame l tgt c args) (chkOff l) =
      checksum (bytesFromTo (buildFrame l tgt c args) 2 (sumLast l)) := by
  cases l with
  | l17 => rw [buildFrame_l17_getD]; rfl
  | l19 => rw [buildFrame_l19_getD]; rfl

/-- The first ten argument bytes stand in the frame in both layouts (30_encoding.md R66). -/
theorem buildFrame_argument (k : Nat) (hk : k < 10) :
    byteAt (buildFrame l tgt c args) (3 + k) = args.getD k 0 := by
  cases l with
  | l17 => rw [buildFrame_l17_getD]; interval_cases k <;> rfl
  | l19 => rw [buildFrame_l19_getD]; interval_cases k <;> rfl

/-- Under `L17` the selector rule decides bytes 13 and 14 (41_command_encoder.md R101). -/
theorem buildFrame_l17_selector :
    (byteAt (buildFrame .l17 tgt c args) 13, byteAt (buildFrame .l17 tgt c args) 14) =
      selectorL17 tgt (args.getD 10 0) (args.getD 11 0) := by
  rw [buildFrame_l17_getD]; rfl

/-- Under `L19` arguments 10 and 11 stand in the frame and the target follows them
(41_command_encoder.md R101 (d)). -/
theorem buildFrame_l19_selector :
    byteAt (buildFrame .l19 tgt c args) 13 = args.getD 10 0 ∧
    byteAt (buildFrame .l19 tgt c args) 14 = args.getD 11 0 ∧
    byteAt (buildFrame .l19 tgt c args) 15 = lo8 (targetOrAny tgt) ∧
    byteAt (buildFrame .l19 tgt c args) 16 = hi8 (targetOrAny tgt) := by
  rw [buildFrame_l19_getD]; exact ⟨rfl, rfl, rfl, rfl⟩

end Bytes

/-! ### The frame of `SET_ID` -/

/-- A run of zero bytes in front adds nothing (40_checksum.md R94 (c)). -/
theorem checksum_zeros_append (n : Nat) (bs : List Byte) :
    checksum (zeros n ++ bs) = checksum bs := by
  induction n with
  | zero => rfl
  | succ n ih => exact (checksum_zero_cons (zeros n ++ bs)).trans ih

/-- `SET_ID` under `L17`, with the selector pair that stands in the place of the ID
(41_command_encoder.md R106). -/
theorem setIdFrame_l17 {tgt n : Half} {lo hi : Byte}
    (hsel : selectorL17 tgt (lo8 n) (hi8 n) = (lo, hi)) :
    buildFrame .l17 tgt 0x05 (zeros 10 ++ [lo8 n, hi8 n]) =
      [0xAA, 0xB4, 0x05, 0, 0, 0, 0, 0, 0, 0, 0, 0, 0, lo, hi, 0x05 + lo + hi, 0xAB] := by
  have hsum : checksum (0x05 :: (zeros 10 ++ [lo, hi])) = 0x05 + lo + hi := by
    simp [checksum_cons, checksum_zeros_append, BitVec.add_assoc]
  rw [← hsum]
  refine (buildFrame_l17 tgt 0x05 0 0 0 0 0 0 0 0 0 0 (lo8 n) (hi8 n)).trans ?_
  rw [hsel]
  rfl

/-- `SET_ID` under `L19`: the ID, then the target (41_command_encoder.md R106). -/
theorem setIdFrame_l19 (tgt n : Half) :
    let t := targetOrAny tgt
    buildFrame .l19 tgt 0x05 (zeros 10 ++ [lo8 n, hi8 n]) =
      [0xAA, 0xB4, 0x05, 0, 0, 0, 0, 0, 0, 0, 0, 0, 0, lo8 n, hi8 n, lo8 t, hi8 t,
        0x05 + lo8 n + hi8 n + lo8 t + hi8 t, 0xAB] := by
  intro t
  have hsum : checksum (0x05 :: (zeros 10 ++ [lo8 n, hi8 n, lo8 t, hi8 t])) =
      0x05 + lo8 n + hi8 n + lo8 t + hi8 t := by
    simp [checksum_cons, checksum_zeros_append, BitVec.add_assoc]
  rw [← hsum]
  exact buildFrame_l19 tgt 0x05 0 0 0 0 0 0 0 0 0 0 (lo8 n) (hi8 n)

end Sys2Proof

namespace Sys2Proof.Machine

/-! ### The instructions and the program line -/

/-- `SET_ID n` is `ENCODE` of its argument bytes (41_command_encoder.md R106). -/
theorem exec_setId (n : Half) (s : State) :
    exec (.setId n) s = encodeOp 0x05 (zeros 10 ++ [lo8 n, hi8 n]) s := by rfl

/-- `RAW` is `ENCODE` with no restriction (41_command_encoder.md R102). -/
theorem exec_raw (c : Byte) (args : List Byte) (s : State) :
    exec (.raw c args) s = encodeOp c args s := by rfl

/-- The line `ENCODE` of a program is the operation, with the line passed. -/
theorem hostOperation_encode (c : Byte) (args : List Byte) (rest : List HostOp) (s : State) :
    hostOperation (.encode c args) rest s = encodeOp c args (s.withProgram rest) := by rfl

/-- `ENCODE` refuses a thirteenth argument before anything else (41_command_encoder.md R100). -/
theorem encodeOp_tooManyArgs {c : Byte} {args : List Byte} (s : State) (hn : 12 < args.length) :
    encodeOp c args s = .refused .tooManyArgs := if_pos hn

/-- Settles O8: `SET_ID` is `ENCODE`, and the selector rule on the two bytes of the ID tells the cases
apart. -/
theorem setIdBuildsItsFrame : Obligations.SetIdBuildsItsFrame := by
  unfold Obligations.SetIdBuildsItsFrame
  intro n s t ht
  change t = targetOrAny s.tgt at ht
  subst ht
  have twelve : (zeros 10 ++ [lo8 n, hi8 n]).length ≤ 12 := by simp [zeros]
  refine ⟨?l17NonZero, ?l17Zero, ?l19, ?busy⟩
  case l17NonZero =>
    intro hp ha hl hn
    have hid : ¬ (lo8 n = 0 ∧ hi8 n = 0) := mt (lo8_hi8_eq_zero n).1 hn
    rw [exec_setId, encodeOp_ready twelve hp ha, hl, setIdFrame_l17 (selectorL17_of_not_zero hid)]
    rfl
  case l17Zero =>
    intro hp ha hl hn
    have hid : lo8 n = 0 ∧ hi8 n = 0 := (lo8_hi8_eq_zero n).2 hn
    rw [exec_setId, encodeOp_ready twelve hp ha, hl, setIdFrame_l17 (selectorL17_of_zero hid)]
    rfl
  case l19 =>
    intro hp ha hl
    rw [exec_setId, encodeOp_ready twelve hp ha, hl, setIdFrame_l19]
    rfl
  case busy =>
    intro hb
    rw [exec_setId, encodeOp_busy twelve hb]

/-- Settles O9: `RAW` and the line `ENCODE` both load the builder's frame, whose bytes are known for any
arguments. -/
theorem rawAndEncodeBuildAnyFrame : Obligations.RawAndEncodeBuildAnyFrame := by
  unfold Obligations.RawAndEncodeBuildAnyFrame
  intro c args s t ht
  change t = targetOrAny s.tgt at ht
  subst ht
  refine ⟨?ready, ?tooMany, ?busy⟩
  case ready =>
    intro hn hp ha
    obtain ⟨hhead, hmarker, hcmd, htail⟩ := buildFrame_fixedBytes s.cfg.layout s.tgt c args
    refine ⟨buildFrame s.cfg.layout s.tgt c args, ?raw, ?encode, buildFrame_length .., hhead, hmarker,
      hcmd, buildFrame_argument s.cfg.layout s.tgt c args, ?l19, ?l17Zero, ?l17NonZero,
      buildFrame_checksumByte .., htail⟩
    case raw =>
      rw [exec_raw, encodeOp_ready hn hp ha]
      rfl
    case encode =>
      intro rest
      rw [hostOperation_encode, encodeOp_ready (s := s.withProgram rest) hn hp ha]
      rfl
    case l19 =>
      intro hl
      rw [hl]
      exact buildFrame_l19_selector s.tgt c args
    case l17Zero =>
      intro hl hz
      rw [hl]
      exact Prod.ext_iff.1 ((buildFrame_l17_selector s.tgt c args).trans (selectorL17_of_zero hz))
    case l17NonZero =>
      intro hl hz
      rw [hl]
      exact Prod.ext_iff.1 ((buildFrame_l17_selector s.tgt c args).trans (selectorL17_of_not_zero hz))
  case tooMany =>
    intro hn
    refine ⟨?_, fun rest => ?_⟩
    · rw [exec_raw, encodeOp_tooManyArgs s hn]
    · rw [hostOperation_encode, encodeOp_tooManyArgs (s.withProgram rest) hn]
  case busy =>
    intro hn hb
    refine ⟨?_, fun rest => ?_⟩
    · rw [exec_raw, encodeOp_busy hn hb]
    · rw [hostOperation_encode, encodeOp_busy (s := s.withProgram rest) hn hb]

end Sys2Proof.Machine
end

section
/-!
The byte step of the decoder (42_resynchronizer.md section 2): what it does in each state, and that decoding
ten bytes and running the decoded instruction is the transition of those bytes.
-/

namespace Sys2Proof

/-! ### A row read back -/

/-- The operands a fitting row reads name the frame itself (30_encoding.md R63, R74). -/
theorem responseWindow_readResponse {w : Window} {g : RspForm} (h0 : w.b0 = headByte)
    (h9 : w.b9 = tailByte) (hfit : rspRowFits w g) : responseWindow (readResponse w g) = some w := by
  obtain ⟨b0, b1, b2, b3, b4, b5, b6, b7, b8, b9⟩ := w
  cases h0
  cases h9
  cases g with
  | meas | ackOther =>
    cases hfit
    simp [readResponse, responseWindow, measWindow, ackWindow, headByte, tailByte, typeMeas, typeAck]
  | ackMode | ackId | ackRun | ackFw | ackDuty =>
    obtain ⟨htype, hcmd⟩ := hfit
    cases htype
    cases hcmd
    simp [readResponse, responseWindow, ackWindow, headByte, tailByte, typeAck]

/-- What the response decoder takes: a frame with head, tail and a known type (30_encoding.md R77). -/
theorem decodeResponse_eq_ok {w : Window} {i : Instr} (h : decodeResponse w = .ok i) :
    w.b0 = headByte ∧ w.b9 = tailByte ∧ (w.b1 = typeMeas ∨ w.b1 = typeAck) ∧
      i = readResponse w (rspFormOf w) := by
  unfold decodeResponse at h
  by_cases h0 : w.b0 = headByte
  · by_cases h9 : w.b9 = tailByte
    · by_cases ht : w.b1 ≠ typeMeas ∧ w.b1 ≠ typeAck
      · simp [h0, h9, ht] at h
      · rw [if_neg (not_not_intro h0), if_neg (not_not_intro h9), if_neg ht] at h
        cases h
        exact ⟨h0, h9, by tauto, rfl⟩
    · simp [h0, h9] at h
  · simp [h0] at h

/-- The instruction decoded from ten bytes is the one of these ten bytes (30_encoding.md R74). -/
theorem responseWindow_of_decodeResponse {w : Window} {i : Instr} (h : decodeResponse w = .ok i) :
    responseWindow i = some w := by
  obtain ⟨h0, h9, ht, rfl⟩ := decodeResponse_eq_ok h
  exact responseWindow_readResponse h0 h9 (rspFormOf_fits h0 h9 ht).1

end Sys2Proof

namespace Sys2Proof.Machine

/-! ### The byte step -/

/-- Whether the ten bytes decode or not, they make the same transition (42_resynchronizer.md R133). -/
theorem finishWindow_eq_receiveWindow (w : Window) (s : State) :
    finishWindow w s = receiveWindow w s := by
  unfold finishWindow
  cases h : decodeResponse w with
  | ok i => exact exec_of_responseWindow (responseWindow_of_decodeResponse h) s
  | error e => rfl

/-- In `HUNT` a byte other than the head is dropped (42_resynchronizer.md R131). -/
theorem rxByteOp_hunt_skip {b : Byte} {s : State} (hs : s.rxstate = .hunt) (hb : b ≠ headByte) :
    rxByteOp b s = .next (s.emit (.skip b)) := by
  simp [rxByteOp, hs, hb]

/-- In `HUNT` the head byte begins a candidate (42_resynchronizer.md R132). -/
theorem rxByteOp_hunt_head {s : State} (hs : s.rxstate = .hunt) :
    rxByteOp headByte s = .next s.startWindow := by
  simp [rxByteOp, hs]

/-- In `COLLECT` a byte before the tenth is stored at the position counter (42_resynchronizer.md R133). -/
theorem rxByteOp_collect_store {b : Byte} {s : State} {n : Fin 10} (hs : s.rxstate = .collect)
    (hc : s.rxcnt.val < 9) (hn : n.val = s.rxcnt.val + 1) :
    rxByteOp b s = .next (s.storeByte b n) := by
  have next : (⟨s.rxcnt.val + 1, by omega⟩ : Fin 10) = n := Fin.ext hn.symm
  simp [rxByteOp, hs, hc, next]

/-- In `COLLECT` the tenth byte, whatever it is, makes the window's transition (42_resynchronizer.md
R133, R134). -/
theorem rxByteOp_collect_tenth {b : Byte} {s : State} (hs : s.rxstate = .collect) (hc : s.rxcnt = 9) :
    rxByteOp b s = receiveWindow (s.rxbuf.set 9 b) s := by
  simp [rxByteOp, hs, hc, finishWindow_eq_receiveWindow]

/-- Settles O17: in `HUNT` the byte step has two cases, told apart by the head byte. -/
theorem huntSkipsToTheHeadByte : Obligations.HuntSkipsToTheHeadByte := by
  unfold Obligations.HuntSkipsToTheHeadByte
  intro b s hs
  refine ⟨?skip, ?head⟩
  case skip => exact fun hb => rxByteOp_hunt_skip hs hb
  case head =>
    rintro rfl
    exact rxByteOp_hunt_head hs

/-- Settles O18: a byte before the tenth is stored, and the tenth byte's transition, while armed, is
`complete` of the ten bytes. -/
theorem collectStoresAnyByteAndTheTenthCompletes :
    Obligations.CollectStoresAnyByteAndTheTenthCompletes := by
  unfold Obligations.CollectStoresAnyByteAndTheTenthCompletes
  intro b s hs
  refine ⟨?store, ?tenth⟩
  case store => exact fun n hc hn => rxByteOp_collect_store hs hc hn
  case tenth =>
    intro hc ha
    rw [rxByteOp_collect_tenth hs hc, receiveWindow_armed ha]
    rfl

end Sys2Proof.Machine
end

section
/-!
The checksum over concatenated, permuted and changed sequences, and the accumulator that computes it
(40_checksum.md R92, R94).
-/

namespace Sys2Proof

/-- The checksum splits over a concatenation (40_checksum.md R94 (a)). -/
theorem checksum_append (x y : List Byte) : checksum (x ++ y) = checksum x + checksum y := by
  induction x with
  | nil => simp
  | cons b x ih => rw [List.cons_append, checksum_cons, checksum_cons, ih, BitVec.add_assoc]

/-- The checksum ignores the order of the bytes (40_checksum.md R94 (b)). -/
theorem checksum_perm {x y : List Byte} (h : x.Perm y) : checksum x = checksum y := by
  apply BitVec.eq_of_toNat_eq
  rw [checksum_toNat_eq_sum_mod, checksum_toNat_eq_sum_mod, (h.map BitVec.toNat).sum_eq]

/-- Feeding an accumulator adds the checksum to it (40_checksum.md R92). -/
theorem accumulate_eq_add_checksum (acc : Byte) (bs : List Byte) :
    accumulate acc bs = acc + checksum bs := by
  induction bs generalizing acc with
  | nil => simp
  | cons b bs ih => rw [accumulate_cons, ih, checksum_cons, BitVec.add_assoc]

/-- Settles O2: the sum splits around the place of the zero or changed byte, where byte addition cancels. -/
theorem checksumIgnoresOrderAndDetectsOneChange :
    Obligations.ChecksumIgnoresOrderAndDetectsOneChange := by
  unfold Obligations.ChecksumIgnoresOrderAndDetectsOneChange
  refine ⟨checksum_append, fun _ _ => checksum_perm, ?zero, ?change⟩
  case zero =>
    intro x y
    rw [checksum_append, checksum_append, checksum_zero_cons]
  case change =>
    intro x y b b' hb h
    rw [checksum_append, checksum_append, checksum_cons, checksum_cons, BitVec.add_right_inj,
      BitVec.add_left_inj] at h
    exact hb h

/-- Settles O3: the accumulator holds the checksum of the bytes in the order fed, which the order does not
change. -/
theorem accumulatorReachesChecksumInAnyOrder : Obligations.AccumulatorReachesChecksumInAnyOrder := by
  unfold Obligations.AccumulatorReachesChecksumInAnyOrder
  intro x y h
  rw [accumulate_eq_add_checksum, zero_add, checksum_perm h]

end Sys2Proof
end

section
/-!
The frames of the command encoder: their invariant, their selector, and the frames of the commands without
an operand and with one operand byte (30_encoding.md R61, R62; 41_command_encoder.md R100 to R116).
-/

namespace Sys2Proof

/-! ### The selector -/

/-- The selector an `L17` frame carries is never zero (41_command_encoder.md R101 (a)). -/
theorem selectorL17_ne_zero (tgt : Half) (a10 a11 : Byte) :
    ¬ ((selectorL17 tgt a10 a11).1 = 0 ∧ (selectorL17 tgt a10 a11).2 = 0) := by
  by_cases hz : a10 = 0 ∧ a11 = 0
  · rw [selectorL17_of_zero hz, lo8_hi8_eq_zero]
    exact targetOrAny_ne_zero tgt
  · rw [selectorL17_of_not_zero hz]
    exact hz

/-- The two selector bytes of an `L17` frame, read one by one (41_command_encoder.md R101). -/
theorem buildFrame_l17_selectorBytes (tgt : Half) (c : Byte) (args : List Byte) :
    byteAt (buildFrame .l17 tgt c args) 13 = (selectorL17 tgt (args.getD 10 0) (args.getD 11 0)).1 ∧
    byteAt (buildFrame .l17 tgt c args) 14 = (selectorL17 tgt (args.getD 10 0) (args.getD 11 0)).2 :=
  Prod.ext_iff.1 (buildFrame_l17_selector tgt c args)

/-- The emitted selector is never zero, in either layout (41_command_encoder.md R101 (a)). -/
theorem buildFrame_selector_ne_zero (l : Layout) (tgt : Half) (c : Byte) (args : List Byte) :
    ¬ (byteAt (buildFrame l tgt c args) (selOff l) = 0 ∧
      byteAt (buildFrame l tgt c args) (selOff l + 1) = 0) := by
  cases l with
  | l17 =>
    obtain ⟨hlo, hhi⟩ := buildFrame_l17_selectorBytes tgt c args
    simp only [selOff, hlo, hhi]
    exact selectorL17_ne_zero tgt _ _
  | l19 =>
    obtain ⟨-, -, hlo, hhi⟩ := buildFrame_l19_selector tgt c args
    simp only [selOff, hlo, hhi, lo8_hi8_eq_zero]
    exact targetOrAny_ne_zero tgt

/-! ### The frame invariant -/

/-- What the encoder builds satisfies the frame invariant (41_command_encoder.md R116). -/
theorem buildFrame_emitted (l : Layout) (tgt : Half) (c : Byte) (args : List Byte) :
    Machine.EmittedFrame l (buildFrame l tgt c args) := by
  obtain ⟨hhead, hmarker, -, htail⟩ := buildFrame_fixedBytes l tgt c args
  exact
    { length := buildFrame_length l tgt c args
      head := hhead
      marker := hmarker
      tail := htail
      sum := buildFrame_checksumByte l tgt c args
      selector := mt (u16le_eq_zero _ _).1 (buildFrame_selector_ne_zero l tgt c args) }

/-- Settles O4: the frame invariant, the command byte and the argument bytes of a built frame; under `L19`
the last two argument bytes too. -/
theorem encoderBuildsFramesWithTheInvariant : Obligations.EncoderBuildsFramesWithTheInvariant := by
  unfold Obligations.EncoderBuildsFramesWithTheInvariant
  intro l tgt c args _
  obtain ⟨-, -, hcmd, -⟩ := buildFrame_fixedBytes l tgt c args
  refine ⟨buildFrame_emitted l tgt c args, hcmd, ?_⟩
  intro k hk hplace
  by_cases h10 : k < 10
  · exact buildFrame_argument l tgt c args k h10
  · obtain rfl : l = .l19 := hplace.resolve_right h10
    obtain ⟨harg10, harg11, -, -⟩ := buildFrame_l19_selector tgt c args
    obtain rfl | rfl : k = 10 ∨ k = 11 := by omega
    · exact harg10
    · exact harg11

/-- Settles O5: the two cases of the selector rule under `L17`, the fixed places under `L19`; the worked
examples are one case each. -/
theorem selectorIsReplacedOnlyWhenZero : Obligations.SelectorIsReplacedOnlyWhenZero := by
  unfold Obligations.SelectorIsReplacedOnlyWhenZero
  refine ⟨?rule, ?examples⟩
  case rule =>
    intro tgt c args t _ ht
    change t = targetOrAny tgt at ht
    subst ht
    obtain ⟨hlo17, hhi17⟩ := buildFrame_l17_selectorBytes tgt c args
    obtain ⟨harg10, harg11, hlo19, hhi19⟩ := buildFrame_l19_selector tgt c args
    refine ⟨?zero, ?nonZero, hlo19, hhi19, harg10, harg11,
      fun l => buildFrame_selector_ne_zero l tgt c args⟩
    case zero =>
      intro hz
      rw [hlo17, hhi17, selectorL17_of_zero hz]
      exact ⟨rfl, rfl⟩
    case nonZero =>
      intro hz
      rw [hlo17, hhi17, selectorL17_of_not_zero hz]
      exact ⟨rfl, rfl⟩
  case examples =>
    intro c
    simp only [buildFrame_l17_selectorBytes]
    decide

/-! ### Frames with few arguments -/

/-- A command with at most two argument bytes, under `L17`: the target stands as the selector
(41_command_encoder.md R103 to R111). -/
theorem shortFrame_l17 (tgt : Half) (c : Byte) {args : List Byte} {a b : Byte}
    (h : padArgs args = [a, b, 0, 0, 0, 0, 0, 0, 0, 0, 0, 0]) :
    let t := targetOrAny tgt
    buildFrame .l17 tgt c args =
      [0xAA, 0xB4, c, a, b, 0, 0, 0, 0, 0, 0, 0, 0, lo8 t, hi8 t, c + a + b + lo8 t + hi8 t, 0xAB] := by
  rw [← buildFrame_padArgs, h, buildFrame_l17, selectorL17_of_zero ⟨rfl, rfl⟩]
  simp [checksum_cons, BitVec.add_assoc]

/-- A command with at most two argument bytes, under `L19`. -/
theorem shortFrame_l19 (tgt : Half) (c : Byte) {args : List Byte} {a b : Byte}
    (h : padArgs args = [a, b, 0, 0, 0, 0, 0, 0, 0, 0, 0, 0]) :
    let t := targetOrAny tgt
    buildFrame .l19 tgt c args =
      [0xAA, 0xB4, c, a, b, 0, 0, 0, 0, 0, 0, 0, 0, 0, 0, lo8 t, hi8 t, c + a + b + lo8 t + hi8 t,
        0xAB] := by
  rw [← buildFrame_padArgs, h, buildFrame_l19]
  simp [checksum_cons, BitVec.add_assoc]

/-! ### Reading a built frame back -/

/-- A built frame has the shape of a command frame. -/
theorem buildFrame_commandShape (l : Layout) (tgt : Half) (c : Byte) (args : List Byte) :
    CommandShape l (buildFrame l tgt c args) := by
  obtain ⟨hhead, hmarker, -, htail⟩ := buildFrame_fixedBytes l tgt c args
  exact ⟨buildFrame_length l tgt c args, hhead, hmarker, htail⟩

/-- What `decode_command` reads off a built frame (41_command_encoder.md R115). -/
theorem commandFields_buildFrame (l : Layout) (tgt : Half) (c : Byte) (args : List Byte) :
    let f := buildFrame l tgt c args
    commandFields l f = .ok
      { cmd := c, args := bytesFromTo f 3 14
        sel := u16le (byteAt f (selOff l)) (byteAt f (selOff l + 1)) } := by
  have hsum := buildFrame_checksumByte l tgt c args
  obtain ⟨-, -, hcmd, -⟩ := buildFrame_fixedBytes l tgt c args
  simp [commandFields, frameFields_of_shape (buildFrame_commandShape l tgt c args), commandChecksum, hsum,
    hcmd]

/-- The twelve bytes after the command byte of an `L17` frame: ten arguments, then the selector. -/
theorem buildFrame_l17_region (tgt : Half) (c : Byte) (args : List Byte) :
    let sel := selectorL17 tgt (args.getD 10 0) (args.getD 11 0)
    bytesFromTo (buildFrame .l17 tgt c args) 3 14 = (padArgs args).take 10 ++ [sel.1, sel.2] := by
  rw [buildFrame_l17_getD, padArgs_eq_getD]
  rfl

/-- The twelve bytes after the command byte of an `L19` frame are the padded arguments. -/
theorem buildFrame_l19_region (tgt : Half) (c : Byte) (args : List Byte) :
    bytesFromTo (buildFrame .l19 tgt c args) 3 14 = padArgs args := by
  rw [buildFrame_l19_getD, padArgs_eq_getD]
  rfl

/-- The last two bytes of a padded argument region. -/
theorem padArgs_take_ten_append (args : List Byte) :
    (padArgs args).take 10 ++ [args.getD 10 0, args.getD 11 0] = padArgs args := by
  rw [padArgs_eq_getD]
  rfl

/-- Settles O11: the fields read back are the argument region of the built frame, whose last two bytes
under `L17` are the selector rule's. -/
theorem decodeCommandRecoversCommandAndArguments :
    Obligations.DecodeCommandRecoversCommandAndArguments := by
  unfold Obligations.DecodeCommandRecoversCommandAndArguments
  intro l tgt c args hn
  refine ⟨_, commandFields_buildFrame l tgt c args, rfl, ?asGiven, ?replaced⟩
  case asGiven =>
    intro hplace
    rw [← padArgs_eq args hn]
    cases l with
    | l19 => exact buildFrame_l19_region tgt c args
    | l17 =>
      have hz := hplace.resolve_left (by decide)
      rw [← padArgs_take_ten_append]
      simpa only [selectorL17_of_not_zero hz] using buildFrame_l17_region tgt c args
  case replaced =>
    rintro ⟨rfl, hz⟩
    have region := buildFrame_l17_region tgt c args
    rw [selectorL17_of_zero hz, padArgs_eq args hn] at region
    exact region

end Sys2Proof

namespace Sys2Proof.Machine

/-! ### The commands -/

/-- A command that is `ENCODE` of at most two argument bytes, in both layouts and while busy. -/
theorem encodeOp_short {c a b : Byte} {args : List Byte} (hn : args.length ≤ 12)
    (h : padArgs args = [a, b, 0, 0, 0, 0, 0, 0, 0, 0, 0, 0]) (s : State) :
    let t := targetOrAny s.tgt
    (s.txpend = false → s.armed = false → s.cfg.layout = .l17 →
      encodeOp c args s = .next (s.loadFrame
        [0xAA, 0xB4, c, a, b, 0, 0, 0, 0, 0, 0, 0, 0, lo8 t, hi8 t, c + a + b + lo8 t + hi8 t, 0xAB])) ∧
    (s.txpend = false → s.armed = false → s.cfg.layout = .l19 →
      encodeOp c args s = .next (s.loadFrame
        [0xAA, 0xB4, c, a, b, 0, 0, 0, 0, 0, 0, 0, 0, 0, 0, lo8 t, hi8 t, c + a + b + lo8 t + hi8 t,
          0xAB])) ∧
    (s.txpend = true ∨ s.armed = true → encodeOp c args s = .refused .overlappingRequest) := by
  refine ⟨fun hp ha hl => ?_, fun hp ha hl => ?_, encodeOp_busy hn⟩
  · rw [encodeOp_ready hn hp ha, hl, shortFrame_l17 s.tgt c h]
  · rw [encodeOp_ready hn hp ha, hl, shortFrame_l19 s.tgt c h]

/-- Each of the five commands without operand is `ENCODE` of arguments that are all zero
(41_command_encoder.md R103, R105, R107, R109, R110). -/
theorem exec_withoutOperand {i : Instr} {c : Byte}
    (h : (i, c) ∈ [(Instr.getMode, (0x02 : Byte)), (.query, 0x04), (.getRun, 0x06), (.getFw, 0x07),
      (.getDuty, 0x08)]) :
    ∃ args : List Byte, args.length ≤ 12 ∧ padArgs args = zeros 12 ∧
      ∀ s, exec i s = encodeOp c args s := by
  simp only [List.mem_cons, Prod.mk.injEq, List.not_mem_nil, or_false] at h
  rcases h with ⟨rfl, rfl⟩ | ⟨rfl, rfl⟩ | ⟨rfl, rfl⟩ | ⟨rfl, rfl⟩ | ⟨rfl, rfl⟩
  case inr.inl | inr.inr.inr.inl => exact ⟨[], by decide, by decide, fun _ => rfl⟩
  all_goals exact ⟨[0x00], by decide, by decide, fun _ => rfl⟩

/-- Settles O6: each of the five is `ENCODE` of zero arguments. -/
theorem commandsWithoutOperandBuildTheirFrame : Obligations.CommandsWithoutOperandBuildTheirFrame := by
  unfold Obligations.CommandsWithoutOperandBuildTheirFrame
  intro i c hi s t ht
  change t = targetOrAny s.tgt at ht
  subst ht
  obtain ⟨args, hn, hpad, hexec⟩ := exec_withoutOperand hi
  have short := encodeOp_short (c := c) hn hpad s
  simp only [add_zero] at short
  simp only [hexec]
  exact short

/-- A setter is `ENCODE` of its sub-opcode and operand up to its bound, and refused above it
(41_command_encoder.md R104, R108, R111). -/
theorem exec_setter {f : Byte → Instr} {c : Byte} {bound : Nat}
    (h : (f, c, bound) ∈
      [(Instr.setMode, (0x02 : Byte), 1), (Instr.setRun, 0x06, 1), (Instr.setDuty, 0x08, 30)])
    (v : Byte) (s : State) :
    (v.toNat ≤ bound → exec (f v) s = encodeOp c [0x01, v] s) ∧
    (bound < v.toNat → exec (f v) s = .refused .operandRange) := by
  have split : ∀ {o : Result} {n : Nat},
      (v.toNat ≤ n → (if n < v.toNat then .refused .operandRange else o) = o) ∧
      (n < v.toNat → (if n < v.toNat then .refused .operandRange else o) = .refused .operandRange) :=
    ⟨fun hv => if_neg (by omega), fun hv => if_pos hv⟩
  simp only [List.mem_cons, Prod.mk.injEq, List.not_mem_nil, or_false] at h
  rcases h with ⟨rfl, rfl, rfl⟩ | ⟨rfl, rfl, rfl⟩ | ⟨rfl, rfl, rfl⟩
  all_goals exact split

/-- The two argument bytes of a setter, padded. -/
theorem padArgs_setter (v : Byte) : padArgs [0x01, v] = [0x01, v, 0, 0, 0, 0, 0, 0, 0, 0, 0, 0] := by rfl

/-- Settles O7: in range a setter is `ENCODE` of its two argument bytes, and so is `RAW` for any operand. -/
theorem setCommandsBuildTheirFrameInRange : Obligations.SetCommandsBuildTheirFrameInRange := by
  unfold Obligations.SetCommandsBuildTheirFrameInRange
  intro f c bound hf v s t ht
  change t = targetOrAny s.tgt at ht
  subst ht
  obtain ⟨hin, hout⟩ := exec_setter hf v s
  obtain ⟨hl17, hl19, hbusy⟩ := encodeOp_short (c := c) (by simp) (padArgs_setter v) s
  refine ⟨?l17, ?l19, hout, ?raw, ?busy⟩
  case l17 =>
    intro hv hp ha hl
    rw [hin hv]
    exact hl17 hp ha hl
  case l19 =>
    intro hv hp ha hl
    rw [hin hv]
    exact hl19 hp ha hl
  case raw =>
    intro hp ha
    have hready := encodeOp_ready (c := c) (args := [0x01, v]) (s := s) (by simp) hp ha
    exact ⟨_, (exec_raw c [0x01, v] s).trans hready, fun hv => (hin hv).trans hready⟩
  case busy =>
    intro hv hb
    rw [hin hv]
    exact hbusy hb

/-- Settles O10: under `L17` both operands put the target where the selector stands; under `L19` the two
frames differ in the operand's bytes. -/
theorem setIdZeroIsSetIdTargetUnderL17 : Obligations.SetIdZeroIsSetIdTargetUnderL17 := by
  unfold Obligations.SetIdZeroIsSetIdTargetUnderL17
  intro s hp ha ht
  obtain ⟨-, hzero17, hzero19, -⟩ := setIdBuildsItsFrame 0 s (targetOrAny s.tgt) rfl
  obtain ⟨htgt17, -, htgt19, -⟩ := setIdBuildsItsFrame s.tgt s (targetOrAny s.tgt) rfl
  refine ⟨fun hl => ?same, fun hl h => ?differ⟩
  case same => rw [hzero17 hp ha hl rfl, htgt17 hp ha hl ht, targetOrAny_of_ne_zero ht]
  case differ =>
    rw [hzero19 hp ha hl, htgt19 hp ha hl] at h
    injection h with h
    have hframe := congrArg State.txbuf h
    simp only [List.cons.injEq] at hframe
    obtain ⟨-, -, -, -, -, -, -, -, -, -, -, -, -, hlo, hhi, -⟩ := hframe
    exact ht ((lo8_hi8_eq_zero s.tgt).1 ⟨hlo.symm, hhi.symm⟩)

end Sys2Proof.Machine
end

section
/-!
The rows of the response frames: decode of encode and encode of decode, and the row as the response form
(30_encoding.md section 3).
-/

namespace Sys2Proof

open Sys2Proof.Machine

/-! ### The row of a window -/

/-- A fitting row is the response form that type and echo name at the default positions
(30_encoding.md R74). -/
theorem responseForm_of_fits {w : Window} {g : RspForm} (hfit : rspRowFits w g)
    (hother : g = .ackOther → w.b2 ∉ namedAckCommands) : responseForm Config.standard w = g := by
  have echo : ackCmd Config.standard w = w.b2 := rfl
  have ack : typeAck ≠ typeMeas := by decide
  simp only [responseForm, rspType, echo]
  cases g with
  | meas => exact if_pos hfit
  | ackMode | ackId | ackRun | ackFw | ackDuty =>
    obtain ⟨htype, hcmd⟩ := hfit
    rw [htype, hcmd, if_neg ack]
    rfl
  | ackOther =>
    have hunnamed := hother rfl
    simp only [namedAckCommands, List.mem_cons, List.not_mem_nil, or_false, not_or] at hunnamed
    obtain ⟨h2, h5, h6, h7, h8⟩ := hunnamed
    rw [show w.b1 = typeAck from hfit, if_neg ack, if_neg h2, if_neg h5, if_neg h6, if_neg h7, if_neg h8]

/-- A row fits only a frame of one of the two types (30_encoding.md R64). -/
theorem type_of_fits {w : Window} {g : RspForm} (hfit : rspRowFits w g) :
    w.b1 = typeMeas ∨ w.b1 = typeAck := by
  cases g with
  | meas => exact .inl hfit
  | ackOther => exact .inr hfit
  | ackMode | ackId | ackRun | ackFw | ackDuty => exact .inr hfit.1

/-- With head and tail in place, a window decodes to what its fitting row reads. -/
theorem decodeResponse_of_fits {w : Window} {i : Instr} (g : RspForm) (h0 : w.b0 = headByte)
    (h9 : w.b9 = tailByte) (hfit : rspRowFits w g) (hother : g = .ackOther → w.b2 ∉ namedAckCommands)
    (hread : readResponse w g = i) : decodeResponse w = .ok i := by
  obtain ⟨hfits, hothers⟩ := rspFormOf_fits h0 h9 (type_of_fits hfit)
  have hrow : rspFormOf w = g :=
    (responseForm_of_fits hfits hothers).symm.trans (responseForm_of_fits hfit hother)
  rw [decodeResponse_of_row h0 h9 (type_of_fits hfit) hrow, hread]

/-- The operands a row reads fit it, where the unnamed row has an unnamed echo. -/
theorem wf_readResponse {w : Window} {g : RspForm} (hother : g = .ackOther → w.b2 ∉ namedAckCommands) :
    (readResponse w g).wf = true := by
  cases g with
  | ackOther => simpa [readResponse, Instr.wf] using hother rfl
  | meas | ackMode | ackId | ackRun | ackFw | ackDuty => rfl

/-- The encoding of a response instruction is its window (30_encoding.md R63). -/
theorem encode_response {i : Instr} {w : Window} (l : Layout) (tgt : Half)
    (h : responseWindow i = some w) : encode l tgt i = w.toList := by
  simp [encode, h]

/-- Settles O36: the window of each response instruction fits the instruction's row and no other. -/
theorem decodeAfterEncodeResponses : Obligations.DecodeAfterEncodeResponses := by
  unfold Obligations.DecodeAfterEncodeResponses
  rintro l tgt i hwf ⟨w, hw⟩
  rw [encode_response l tgt hw, decode_window]
  cases i with
  | meas pm25 pm10 id chk =>
    cases hw
    exact decodeResponse_of_fits .meas rfl rfl rfl nofun (by simp [readResponse, measWindow])
  | ackMode sub mode p3 id chk =>
    cases hw
    exact decodeResponse_of_fits .ackMode rfl rfl ⟨rfl, rfl⟩ nofun (by simp [readResponse, ackWindow])
  | ackId p1 p2 p3 id chk =>
    cases hw
    exact decodeResponse_of_fits .ackId rfl rfl ⟨rfl, rfl⟩ nofun (by simp [readResponse, ackWindow])
  | ackRun sub run p3 id chk =>
    cases hw
    exact decodeResponse_of_fits .ackRun rfl rfl ⟨rfl, rfl⟩ nofun (by simp [readResponse, ackWindow])
  | ackFw year month day id chk =>
    cases hw
    exact decodeResponse_of_fits .ackFw rfl rfl ⟨rfl, rfl⟩ nofun (by simp [readResponse, ackWindow])
  | ackDuty sub duty p3 id chk =>
    cases hw
    exact decodeResponse_of_fits .ackDuty rfl rfl ⟨rfl, rfl⟩ nofun (by simp [readResponse, ackWindow])
  | ackOther cmd p1 p2 p3 id chk =>
    cases hw
    have hunnamed : cmd ∉ namedAckCommands := by simpa [Instr.wf] using hwf
    exact decodeResponse_of_fits .ackOther rfl rfl rfl (fun _ => hunnamed)
      (by simp [readResponse, ackWindow])
  | _ => cases hw

/-- Settles O38: the decoded instruction's window is the window decoded. -/
theorem encodeAfterDecodeResponseWindows : Obligations.EncodeAfterDecodeResponseWindows := by
  unfold Obligations.EncodeAfterDecodeResponseWindows
  intro l tgt w i h
  have hw := responseWindow_of_decodeResponse h
  obtain ⟨h0, h9, ht, rfl⟩ := decodeResponse_eq_ok h
  obtain ⟨-, hother⟩ := rspFormOf_fits h0 h9 ht
  exact ⟨encode_response l tgt hw, hw, wf_readResponse hother⟩

/-- Settles O39: the row the decoder picks fits, and a fitting row is the response form. -/
theorem decodedRowIsTheResponseForm : Obligations.DecodedRowIsTheResponseForm := by
  unfold Obligations.DecodedRowIsTheResponseForm
  intro w i h
  obtain ⟨h0, h9, ht, rfl⟩ := decodeResponse_eq_ok h
  obtain ⟨hfit, hother⟩ := rspFormOf_fits h0 h9 ht
  rw [responseForm_of_fits hfit hother]

end Sys2Proof
end

section
/-!
What the decoder does with a completed candidate: the five clauses, the reason, acceptance and discard
(43_response_decoder.md sections 1 and 2).
-/

namespace Sys2Proof.Machine

/-! ### The verdict and its reason -/

/-- The verdict accepts exactly when the five clauses hold (43_response_decoder.md R150). -/
theorem verdictOf_eq_accept_iff (cfg : Config) (w : Window) (ty c : Byte) :
    verdictOf cfg w ty c = acceptVerdict ↔
      w.b0 = headByte ∧ w.b9 = tailByte ∧ checksum w.payload = w.b8 ∧ w.b1 = ty ∧
        (ty = typeAck → ackCmd cfg w = c) := by
  simp only [verdictOf, verdictBits_accept, headClause_iff, tailClause_iff, sumClause_iff,
    typeClause_iff, cmdClause_iff]

/-- The reason is the code of the first failing clause (43_response_decoder.md R150). -/
theorem reasonOf_verdictOf (cfg : Config) (w : Window) (ty c : Byte) :
    reasonOf (verdictOf cfg w ty c) = (if w.b0 ≠ headByte then 1 else if w.b9 ≠ tailByte then 2
      else if checksum w.payload ≠ w.b8 then 3 else if w.b1 ≠ ty then 4
      else if ty = typeAck ∧ ackCmd cfg w ≠ c then 5 else 0) := by
  obtain ⟨h4, h3, h2, h1, h0⟩ := verdictBits_get (headClause w) (tailClause w) (sumClause w)
    (typeClause w ty) (cmdClause cfg w ty c)
  simp only [reasonOf, verdictOf, h4, h3, h2, h1, h0, ← Bool.not_eq_true, headClause_iff,
    tailClause_iff, sumClause_iff, typeClause_iff, cmdClause_iff, Classical.not_imp]

/-- The accepting verdict has no reason. -/
theorem reasonOf_accept : reasonOf acceptVerdict = 0 := by decide

/-- The state after an accepted candidate (43_response_decoder.md R152). -/
def acceptedState (w : Window) (s : State) : State :=
  { s with
    rxbuf := w, rxcnt := 0, rxstate := .hunt, verdict := 0b11111, reason := 0
    rspbuf := w, rspvalid := true, armed := false, trace := s.trace ++ [.accept w] }

/-- The state after a discarded candidate (43_response_decoder.md R153; 60_exceptions.md R212). -/
def discardedState (w : Window) (v : BitVec 5) (s : State) : State :=
  { s with
    rxbuf := w, rxcnt := 0, rxstate := .hunt, verdict := v, reason := reasonOf v
    trace := s.trace ++ [.discard w (reasonOf v)] }

/-- An armed decoder accepts a candidate for which the five clauses hold. -/
theorem receiveWindow_accept {w : Window} {s : State} (ha : s.armed = true)
    (h : verdictOf s.cfg w s.expType s.expCmd = acceptVerdict) :
    receiveWindow w s = .next (acceptedState w s) := by
  rw [receiveWindow_armed ha, completeWindow_accept (s := s.closeWindow w) h]
  rfl

/-- An armed decoder discards any other candidate and records the verdict. -/
theorem receiveWindow_discard {w : Window} {s : State} {v : BitVec 5} (ha : s.armed = true)
    (hv : verdictOf s.cfg w s.expType s.expCmd = v) (h : v ≠ acceptVerdict) :
    receiveWindow w s = .next (discardedState w v s) := by
  subst hv
  rw [receiveWindow_armed ha, completeWindow_discard (s := s.closeWindow w) h]
  rfl

/-- Settles O25: whatever the ten bytes decode to, the transition is that of the window. -/
theorem runningTheDecodedWindowIsCompletingIt : Obligations.RunningTheDecodedWindowIsCompletingIt := by
  unfold Obligations.RunningTheDecodedWindowIsCompletingIt
  intro w s ha
  rw [finishWindow_eq_receiveWindow, receiveWindow_armed ha]
  rfl

/-- Settles O26: each verdict bit is its clause, the reason reads them in order, and `complete` branches on
the accepting verdict. -/
theorem verdictEvaluatesAllFiveClauses : Obligations.VerdictEvaluatesAllFiveClauses := by
  unfold Obligations.VerdictEvaluatesAllFiveClauses
  intro cfg w ty c
  obtain ⟨h4, h3, h2, h1, h0⟩ := verdictBits_get (headClause w) (tailClause w) (sumClause w)
    (typeClause w ty) (cmdClause cfg w ty c)
  refine ⟨?head, ?tail, ?sum, ?type, ?cmd, reasonOf_verdictOf cfg w ty c, ?complete,
    runningTheDecodedWindowIsCompletingIt w⟩
  case head => rw [verdictOf, h4, headClause_iff]; rfl
  case tail => rw [verdictOf, h3, tailClause_iff]; rfl
  case sum => rw [verdictOf, h2, sumClause_iff]; rfl
  case type => rw [verdictOf, h1, typeClause_iff]
  case cmd => rw [verdictOf, h0, cmdClause_iff]; rfl
  case complete =>
    rintro s rfl rfl rfl
    by_cases h : verdictOf s.cfg w s.expType s.expCmd = 0b11111
    · rw [if_pos h, completeWindow_accept h]
      rfl
    · rw [if_neg h, completeWindow_discard h]
      rfl

/-- Settles O27: a reason other than 0 means that the verdict does not accept. -/
theorem failingCandidateIsDiscardedWithItsReason :
    Obligations.FailingCandidateIsDiscardedWithItsReason := by
  unfold Obligations.FailingCandidateIsDiscardedWithItsReason
  intro w s r ha hr hne
  have hreason : reasonOf (verdictOf s.cfg w s.expType s.expCmd) = r :=
    (reasonOf_verdictOf s.cfg w s.expType s.expCmd).trans hr.symm
  have hfails : verdictOf s.cfg w s.expType s.expCmd ≠ acceptVerdict := by
    intro h
    rw [h, reasonOf_accept] at hreason
    exact hne hreason.symm
  subst hreason
  rw [finishWindow_eq_receiveWindow, receiveWindow_discard ha rfl hfails]
  rfl

/-! ### The response rows -/

/-- The checksum of six payload bytes as a sum. -/
theorem checksum_six (b2 b3 b4 b5 b6 b7 : Byte) :
    checksum [b2, b3, b4, b5, b6, b7] = b2 + b3 + b4 + b5 + b6 + b7 := by
  simp [checksum_cons, BitVec.add_assoc]

/-- The ID of a frame of either type (43_response_decoder.md R157, R166). -/
theorem rspId_eq (w : Window) : rspId w = u16le w.b6 w.b7 := by rfl

/-- A response instruction whose window meets its expectation is accepted. -/
theorem exec_response_accept {i : Instr} {w : Window} {s : State} (hi : responseWindow i = some w)
    (ha : s.armed = true) (h0 : w.b0 = headByte) (h9 : w.b9 = tailByte)
    (hsum : w.b8 = checksum w.payload) (htype : w.b1 = s.expType)
    (hcmd : s.expType = typeAck → ackCmd s.cfg w = s.expCmd) :
    exec i s = .next (acceptedState w s) := by
  rw [exec_of_responseWindow hi]
  exact receiveWindow_accept ha
    ((verdictOf_eq_accept_iff ..).2 ⟨h0, h9, hsum.symm, htype, hcmd⟩)

/-- An ack frame with a right checksum that meets an awaited echo is accepted. -/
theorem exec_ack_accept {i : Instr} {cmd p1 p2 p3 chk : Byte} {id : Half} {s : State}
    (hi : responseWindow i = some (ackWindow cmd p1 p2 p3 id chk)) (ha : s.armed = true)
    (htype : s.expType = 0xC5) (hcmd : ackCmd s.cfg (ackWindow cmd p1 p2 p3 id chk) = s.expCmd)
    (hsum : chk = cmd + p1 + p2 + p3 + lo8 id + hi8 id) :
    exec i s = .next (acceptedState (ackWindow cmd p1 p2 p3 id chk) s) :=
  exec_response_accept hi ha rfl rfl (hsum.trans (checksum_six ..).symm) htype.symm fun _ => hcmd

/-- Settles O28: the measurement frame meets the five clauses, and its fields are split into bytes and put
together again. -/
theorem awaitedMeasurementIsAcceptedAndDelivered :
    Obligations.AwaitedMeasurementIsAcceptedAndDelivered := by
  unfold Obligations.AwaitedMeasurementIsAcceptedAndDelivered
  refine ⟨?accepted, ?documentExample⟩
  case accepted =>
    rintro pm25 pm10 id chk s w rfl ha hty hsum
    refine ⟨?_, by simp [measPm25], by simp [measPm10], by simp [rspId_eq]⟩
    exact exec_response_accept (i := .meas pm25 pm10 id chk) rfl ha rfl rfl
      (hsum.trans (checksum_six ..).symm) hty.symm fun hack => absurd (hty.symm.trans hack) (by decide)
  case documentExample =>
    exact decodeResponse_of_row (g := .meas) rfl rfl (.inl rfl) (by decide)

/-- Settles O29: the three rows differ in their command byte alone. -/
theorem awaitedValueAckIsAcceptedAndDelivered : Obligations.AwaitedValueAckIsAcceptedAndDelivered := by
  unfold Obligations.AwaitedValueAckIsAcceptedAndDelivered
  rintro f cmd hf sub val p3 id chk s w rfl ha hty hcmd hsum
  have hrow : responseWindow (f sub val p3 id chk) = some (ackWindow cmd sub val p3 id chk) := by
    simp only [List.mem_cons, Prod.mk.injEq, List.not_mem_nil, or_false] at hf
    rcases hf with ⟨rfl, rfl⟩ | ⟨rfl, rfl⟩ | ⟨rfl, rfl⟩ <;> rfl
  exact ⟨exec_ack_accept hrow ha hty hcmd hsum, rfl, rfl, rfl, by simp [rspId_eq]⟩

/-- Settles O30. -/
theorem awaitedFirmwareAckIsAcceptedAndDelivered :
    Obligations.AwaitedFirmwareAckIsAcceptedAndDelivered := by
  unfold Obligations.AwaitedFirmwareAckIsAcceptedAndDelivered
  refine ⟨?accepted, by decide⟩
  rintro year month day id chk s w rfl ha hty hcmd hsum
  exact ⟨exec_ack_accept (i := .ackFw year month day id chk) rfl ha hty hcmd hsum, rfl, rfl, rfl,
    by simp [rspId_eq]⟩

/-- The verdict on an ack frame with a right checksum: its type and its echo decide. -/
theorem verdictOf_ackWindow (cfg : Config) (ty c : Byte) {cmd p1 p2 p3 chk : Byte} {id : Half}
    (hsum : chk = cmd + p1 + p2 + p3 + lo8 id + hi8 id) :
    verdictOf cfg (ackWindow cmd p1 p2 p3 id chk) ty c =
      verdictBits true true true (decide (typeAck = ty))
        (cmdClause cfg (ackWindow cmd p1 p2 p3 id chk) ty c) := by
  have head : headClause (ackWindow cmd p1 p2 p3 id chk) = true := (headClause_iff _).2 rfl
  have tail : tailClause (ackWindow cmd p1 p2 p3 id chk) = true := (tailClause_iff _).2 rfl
  have sum : sumClause (ackWindow cmd p1 p2 p3 id chk) = true :=
    (sumClause_iff _).2 ((checksum_six ..).trans hsum.symm)
  rw [verdictOf, head, tail, sum]
  rfl

/-- Settles O31: head, tail and checksum are right, so the type and the echo decide. -/
theorem awaitedIdOrUnnamedAckIsAccepted : Obligations.AwaitedIdOrUnnamedAckIsAccepted := by
  unfold Obligations.AwaitedIdOrUnnamedAckIsAccepted
  rintro i cmd p1 p2 p3 id chk s w hi rfl ha hsum
  have hrow : responseWindow i = some (ackWindow cmd p1 p2 p3 id chk) := by
    rcases hi with rfl | ⟨rfl, rfl⟩ <;> rfl
  refine ⟨?accepted, ?otherEcho, ?measurement⟩
  case accepted =>
    exact fun hty hcmd => ⟨exec_ack_accept hrow ha hty hcmd hsum, rfl, by simp [rspId_eq]⟩
  case otherEcho =>
    intro hty hcmd
    have cmdFails : cmdClause s.cfg (ackWindow cmd p1 p2 p3 id chk) s.expType s.expCmd = false := by
      rw [← Bool.not_eq_true, cmdClause_iff, Classical.not_imp]
      exact ⟨hty, hcmd⟩
    have hv : verdictOf s.cfg (ackWindow cmd p1 p2 p3 id chk) s.expType s.expCmd = 0b11110 := by
      rw [verdictOf_ackWindow _ _ _ hsum, cmdFails, hty]
      decide
    rw [exec_of_responseWindow hrow, receiveWindow_discard ha hv (by decide)]
    rfl
  case measurement =>
    intro hty
    have cmdHolds : cmdClause s.cfg (ackWindow cmd p1 p2 p3 id chk) s.expType s.expCmd = true :=
      (cmdClause_iff ..).2 fun hack => absurd (hty.symm.trans hack) (by decide)
    have hv : verdictOf s.cfg (ackWindow cmd p1 p2 p3 id chk) s.expType s.expCmd = 0b11101 := by
      rw [verdictOf_ackWindow _ _ _ hsum, cmdHolds, hty]
      decide
    rw [exec_of_responseWindow hrow, receiveWindow_discard ha hv (by decide)]
    rfl

/-! ### Texts and names -/

/-- A byte's decimal digits, padded to two (43_response_decoder.md R163). -/
theorem dec2_eq_toDigits (v : Byte) :
    dec2 v = (if v.toNat < 10 then ['0'] else []) ++ Nat.toDigits 10 v.toNat := by
  revert v
  decide

/-- The number of digits: two up to 99, three above. -/
theorem dec2_length (v : Byte) : (dec2 v).length = if v.toNat ≤ 99 then 2 else 3 := by
  unfold dec2
  by_cases h : v.toNat < 100
  · rw [if_pos h, if_pos (by omega)]
    rfl
  · rw [if_neg h, if_neg (by omega)]
    rfl

/-- The length of the firmware string, by the three numbers of digits. -/
theorem fwString_length (y m d : Byte) :
    (fwString y m d).length = 4 + (dec2 y).length + (dec2 m).length + (dec2 d).length := by
  simp only [fwString, List.length_append, List.length_cons, List.length_nil]
  omega

/-- Settles O32: the lengths add up from two or three digits each. -/
theorem firmwareStringWidthIsAMinimum : Obligations.FirmwareStringWidthIsAMinimum := by
  unfold Obligations.FirmwareStringWidthIsAMinimum
  refine ⟨fun _ _ _ => rfl, dec2_eq_toDigits, ?ten, ?atLeastTen, by decide, by decide, by decide,
    by decide⟩
  case ten =>
    intro y m d
    simp only [fwString_length, dec2_length]
    split <;> split <;> split <;> omega
  case atLeastTen =>
    intro y m d
    simp only [fwString_length, dec2_length]
    split <;> split <;> split <;> omega

/-- Settles O33: at the default values the names are those of 0 and 1, and the tenths are a division by
ten. -/
theorem namesAndTenthsOfDeliveredValues : Obligations.NamesAndTenthsOfDeliveredValues := by
  unfold Obligations.NamesAndTenthsOfDeliveredValues
  refine ⟨by decide, by decide, by decide, by decide, ?names, ?tenths⟩
  case names =>
    intro b hb
    have h0 : b ≠ 0#8 := by rintro rfl; exact absurd hb (by decide)
    have h1 : b ≠ 1#8 := by rintro rfl; exact absurd hb (by decide)
    simp [modeName, runName, Config.standard, h0, h1]
  case tenths =>
    intro raw
    simp only [tenths]
    omega

end Sys2Proof.Machine
end

section
/-!
The byte steps of the decoder: what one of them does, runs of them, and the frame-level function they
refine (42_resynchronizer.md sections 2 to 4).
-/

namespace Sys2Proof.Machine

/-! ### One byte step -/

/-- What an armed decoder does with a byte (42_resynchronizer.md R131 to R133; 43_response_decoder.md
R150). -/
inductive ByteStep (b : Byte) (s : State) : State → Prop
  | skip (hunting : s.rxstate = .hunt) (other : b ≠ headByte) : ByteStep b s (s.emit (.skip b))
  | head (hunting : s.rxstate = .hunt) (isHead : b = headByte) : ByteStep b s s.startWindow
  | store (n : Fin 10) (collecting : s.rxstate = .collect) (following : n.val = s.rxcnt.val + 1) :
      ByteStep b s (s.storeByte b n)
  | accept (collecting : s.rxstate = .collect) (nine : s.rxcnt = 9)
      (meets : verdictOf s.cfg (s.rxbuf.set 9 b) s.expType s.expCmd = acceptVerdict) :
      ByteStep b s (acceptedState (s.rxbuf.set 9 b) s)
  | discard (v : BitVec 5) (collecting : s.rxstate = .collect) (nine : s.rxcnt = 9)
      (judged : verdictOf s.cfg (s.rxbuf.set 9 b) s.expType s.expCmd = v) (fails : v ≠ acceptVerdict) :
      ByteStep b s (discardedState (s.rxbuf.set 9 b) v s)

/-- `RXBYTE` while armed answers the state of a byte step. -/
theorem rxByteOp_byteStep (b : Byte) {s : State} (ha : s.armed = true) :
    ∃ t, rxByteOp b s = .next t ∧ ByteStep b s t := by
  rcases rxByteOp_cases b s with ⟨hs, hb, e⟩ | ⟨hs, hb, e⟩ | ⟨hs, n, hn, e⟩ | ⟨hs, hc, e⟩
  · exact ⟨_, e, .skip hs hb⟩
  · exact ⟨_, e, .head hs hb⟩
  · exact ⟨_, e, .store n hs hn⟩
  · rw [e, finishWindow_eq_receiveWindow]
    by_cases hv : verdictOf s.cfg (s.rxbuf.set 9 b) s.expType s.expCmd = acceptVerdict
    · exact ⟨_, receiveWindow_accept ha hv, .accept hs hc hv⟩
    · exact ⟨_, receiveWindow_discard ha rfl hv, .discard _ hs hc rfl hv⟩

/-- A turn of DEC takes a byte of the stream, or passes where it is unarmed or the stream is empty
(42_resynchronizer.md R137). -/
theorem decStep_byteStep (s : State) :
    (∃ b rest t, s.armed = true ∧ s.rx = b :: rest ∧ decStep s = .next t ∧
      ByteStep b (s.withRx rest) t) ∨
    ((s.armed = false ∨ s.rx = []) ∧ decStep s = .next s) := by
  rcases decStep_cases s with ⟨ha, b, rest, hx, e⟩ | h
  · obtain ⟨t, ht, hstep⟩ := rxByteOp_byteStep b (s := s.withRx rest) ha
    exact .inl ⟨b, rest, t, ha, hx, e.trans ht, hstep⟩
  · exact .inr h

/-- An armed decoder with a byte to take does `RXBYTE` with it. -/
theorem decStep_of_rx {s : State} {b : Byte} {rest : List Byte} (ha : s.armed = true)
    (hx : s.rx = b :: rest) : decStep s = rxByteOp b (s.withRx rest) := by
  simp [decStep, ha, hx]

/-- Armed with a byte to take, DEC has a step. -/
theorem decReady_of_rx {s : State} {b : Byte} {rest : List Byte} (ha : s.armed = true)
    (hx : s.rx = b :: rest) : decReady s = true := by
  simp [decReady, ha, hx]

/-- The fields that no byte step touches: the stream behind the byte, the configuration and what is
outside of the decoder. -/
theorem ByteStep.frame {b : Byte} {s t : State} (h : ByteStep b s t) :
    t.rx = s.rx ∧ t.cfg = s.cfg ∧ t.tgt = s.tgt ∧ t.feed = s.feed := by
  cases h <;> exact ⟨rfl, rfl, rfl, rfl⟩

/-! ### An arriving byte -/

/-- What stands in the stream behind the byte does not change what the byte does. -/
theorem rxByteOp_withRx (b : Byte) {s : State} (ha : s.armed = true) (bs : List Byte) :
    rxByteOp b (s.withRx bs) = thenNext (rxByteOp b s) fun t => t.withRx bs := by
  cases hs : s.rxstate with
  | hunt =>
    by_cases hb : b = headByte
    · subst hb
      rw [rxByteOp_hunt_head hs, rxByteOp_hunt_head (s := s.withRx bs) hs]
      rfl
    · rw [rxByteOp_hunt_skip hs hb, rxByteOp_hunt_skip (s := s.withRx bs) hs hb]
      rfl
  | collect =>
    by_cases hc : s.rxcnt.val < 9
    · have store : ∀ u : State, u.rxstate = .collect → u.rxcnt = s.rxcnt →
          rxByteOp b u = .next (u.storeByte b ⟨s.rxcnt.val + 1, by omega⟩) :=
        fun u hu hcnt => rxByteOp_collect_store hu (hcnt ▸ hc) (by rw [hcnt])
      rw [store s hs rfl, store (s.withRx bs) hs rfl]
      rfl
    · have nine : s.rxcnt = 9 := by omega
      rw [rxByteOp_collect_tenth hs nine, rxByteOp_collect_tenth (s := s.withRx bs) hs nine,
        State.withRx_rxbuf]
      by_cases hv : verdictOf s.cfg (s.rxbuf.set 9 b) s.expType s.expCmd = acceptVerdict
      · rw [receiveWindow_accept ha hv, receiveWindow_accept (s := s.withRx bs) ha hv]
        rfl
      · rw [receiveWindow_discard ha rfl hv, receiveWindow_discard (s := s.withRx bs) ha rfl hv]
        rfl

/-- An unbounded transport appends every byte (20_memory.md R41). -/
theorem arrive_unbounded {s : State} (h : s.cfg.rxFifoDepth = none) (b : Byte) :
    arrive b s = s.withRx (s.rx ++ [b]) := by
  simp [arrive, h]

/-- Settles O48: with a byte to take, what the decoder does with it does not depend on the bytes behind. -/
theorem arrivalAndByteStepCommute : Obligations.ArrivalAndByteStepCommute := by
  unfold Obligations.ArrivalAndByteStepCommute
  intro s b hu hne
  rw [arrive_unbounded hu]
  rcases decStep_byteStep s with ⟨c, rest, t, ha, hx, e, hstep⟩ | ⟨hidle, e⟩
  · obtain ⟨hrx, hcfg, -, -⟩ := hstep.frame
    have hbyte : rxByteOp c (s.withRx rest) = .next t := (decStep_of_rx ha hx).symm.trans e
    have after := rxByteOp_withRx c (s := s.withRx rest) ha (rest ++ [b])
    rw [hbyte] at after
    rw [decStep_of_rx (s := s.withRx (s.rx ++ [b])) (b := c) (rest := rest ++ [b]) ha (by simp [hx]), e]
    refine after.trans ?_
    rw [thenNext_next, thenNext_next, arrive_unbounded (by rw [hcfg]; exact hu), hrx]
    rfl
  · have ha : s.armed = false := hidle.resolve_right hne
    rw [e, thenNext_next, arrive_unbounded hu]
    simp [decStep, ha]

/-! ### Runs of byte steps -/

/-- A run goes on behind a turn that takes a byte. -/
theorem decRun_succ {n : Nat} {s t : State} {b : Byte} {rest : List Byte} (ha : s.armed = true)
    (hx : s.rx = b :: rest) (ht : rxByteOp b (s.withRx rest) = .next t) :
    decRun (n + 1) s = decRun n t := by
  simp only [decRun, decReady_of_rx ha hx, if_true, decStep_of_rx ha hx, ht]

/-- A run whose only turn takes a byte is `RXBYTE` of it. -/
theorem decRun_one {s : State} {b : Byte} {rest : List Byte} (ha : s.armed = true)
    (hx : s.rx = b :: rest) : decRun 1 s = rxByteOp b (s.withRx rest) := by
  obtain ⟨t, ht, -⟩ := rxByteOp_byteStep b (s := s.withRx rest) ha
  rw [decRun_succ ha hx ht, ht]
  rfl

/-- A hunting decoder drops bytes other than the head (42_resynchronizer.md R131). -/
theorem decRun_skips {skipped : List Byte} (hskip : ∀ b ∈ skipped, b ≠ headByte) {rest : List Byte}
    (n : Nat) {s : State} (ha : s.armed = true) (hs : s.rxstate = .hunt) (hx : s.rx = skipped ++ rest) :
    decRun (skipped.length + n) s =
      decRun n { s with rx := rest, trace := s.trace ++ skipped.map Event.skip } := by
  induction skipped generalizing s with
  | nil =>
    have same : ({ s with rx := rest, trace := s.trace ++ [].map Event.skip } : State) = s := by
      rw [List.map_nil, List.append_nil, ← show s.rx = rest from hx]
    rw [same, List.length_nil, Nat.zero_add]
  | cons b skipped ih =>
    have hb : b ≠ headByte := hskip b List.mem_cons_self
    rw [List.cons_append] at hx
    rw [List.length_cons, Nat.add_right_comm, decRun_succ ha hx (rxByteOp_hunt_skip hs hb),
      ih (fun c hc => hskip c (List.mem_cons_of_mem b hc))
        (s := (s.withRx (skipped ++ rest)).emit (.skip b)) ha hs rfl]
    simp [State.emit, State.withRx]

/-- The transition of a window does not read what RXBUF, RXCNT and RXSTATE held before. -/
theorem receiveWindow_congr {w : Window} {s t : State} (hs : s.armed = true) (ht : t.armed = true)
    (h : s.closeWindow w = t.closeWindow w) : receiveWindow w s = receiveWindow w t := by
  rw [receiveWindow_armed hs, receiveWindow_armed ht, h]

/-- A window is known by its ten bytes. -/
theorem window_eq_of_toList {v w : Window} (h : v.toList = w.toList) : v = w :=
  (Window.ofList_toList v).symm.trans ((congrArg Window.ofList h).trans (Window.ofList_toList w))

/-- A collecting decoder that holds the first bytes of a window, with the others in the stream, makes that
window's transition with as many turns as bytes are missing (42_resynchronizer.md R133, R134). -/
theorem decRun_collect (w : Window) (rest : List Byte) {b : Byte} {bs : List Byte} {s : State}
    (ha : s.armed = true) (hs : s.rxstate = .collect)
    (hw : s.rxbuf.toList.take s.rxcnt.val ++ b :: bs = w.toList) (hx : s.rx = b :: (bs ++ rest)) :
    decRun (bs.length + 1) s = receiveWindow w (s.withRx rest) := by
  induction bs generalizing s b with
  | nil =>
    have nine : s.rxcnt = 9 := by
      have hlen := congrArg List.length hw
      simp only [List.length_append, List.length_take, Window.toList_length, List.length_cons,
        List.length_nil] at hlen
      omega
    have whole : s.rxbuf.set 9 b = w := by
      rw [nine] at hw
      exact window_eq_of_toList ((Window.take_succ_set s.rxbuf 9 b).trans hw)
    rw [List.nil_append] at hx
    rw [List.length_nil, Nat.zero_add, decRun_one ha hx,
      rxByteOp_collect_tenth (s := s.withRx rest) hs nine, State.withRx_rxbuf, whole]
  | cons c bs ih =>
    have hc : s.rxcnt.val < 9 := by
      have hlen := congrArg List.length hw
      simp only [List.length_append, List.length_take, Window.toList_length, List.length_cons] at hlen
      omega
    have hstore := rxByteOp_collect_store (b := b) (s := s.withRx (c :: bs ++ rest)) hs hc
      (n := ⟨s.rxcnt.val + 1, by omega⟩) rfl
    have held := Window.take_succ_set s.rxbuf s.rxcnt b
    rw [List.length_cons, decRun_succ ha hx hstore, ih (by exact ha) (by exact hs)
      (by simpa [State.storeByte, held] using hw) rfl]
    exact receiveWindow_congr (by exact ha) (by exact ha) rfl

/-- From `HUNT`, ten bytes that begin with the head make their window's transition in ten turns. -/
theorem decRun_frame {w : Window} (h0 : w.b0 = headByte) {rest : List Byte} {s : State}
    (ha : s.armed = true) (hs : s.rxstate = .hunt) (hx : s.rx = w.toList ++ rest) :
    decRun 10 s = receiveWindow w (s.withRx rest) := by
  obtain ⟨b0, b1, b2, b3, b4, b5, b6, b7, b8, b9⟩ := w
  obtain rfl : b0 = headByte := h0
  rw [decRun_succ (rest := [b1, b2, b3, b4, b5, b6, b7, b8, b9] ++ rest) ha hx (rxByteOp_hunt_head hs)]
  refine (decRun_collect ⟨headByte, b1, b2, b3, b4, b5, b6, b7, b8, b9⟩ rest (b := b1)
    (bs := [b2, b3, b4, b5, b6, b7, b8, b9]) (by exact ha) (by rfl) (by rfl) (by rfl)).trans ?_
  exact receiveWindow_congr (by exact ha) (by exact ha) rfl

/-! ### The frame-level function -/

/-- The scan drops any run of bytes without a head byte (42_resynchronizer.md R138). -/
theorem scanResponse_skips {skipped : List Byte} (h : ∀ b ∈ skipped, b ≠ headByte) (bs : List Byte) :
    scanResponse (skipped ++ bs) = scanResponse bs := by
  induction skipped with
  | nil => rfl
  | cons b skipped ih =>
    rw [List.cons_append, scanResponse_skip (h b List.mem_cons_self),
      ih fun c hc => h c (List.mem_cons_of_mem b hc)]

/-- The scan finds the frame behind bytes without a head byte (42_resynchronizer.md R138). -/
theorem scanResponse_skips_frame {skipped : List Byte} (h : ∀ b ∈ skipped, b ≠ headByte) {w : Window}
    (h0 : w.b0 = headByte) (rest : List Byte) :
    scanResponse (skipped ++ (w.toList ++ rest)) = .frame w rest := by
  rw [scanResponse_skips h, scanResponse_frame h0]

/-- Settles O19: both drop the skipped bytes first and take the ten bytes of the window then. -/
theorem byteStepsCutTheFrameThatScanCuts : Obligations.ByteStepsCutTheFrameThatScanCuts := by
  unfold Obligations.ByteStepsCutTheFrameThatScanCuts
  intro s skipped rest w ha hs _ hskip h0 hx
  rw [List.append_assoc] at hx
  refine ⟨?scan, ?run⟩
  case scan => rw [hx, scanResponse_skips_frame hskip h0]
  case run =>
    rw [decRun_skips hskip 10 ha hs hx]
    exact decRun_frame h0 ha hs rfl

/-- Settles O21: the scan is applied twice. -/
theorem twoFramesAmongGarbageAreFoundInOrder : Obligations.TwoFramesAmongGarbageAreFoundInOrder := by
  unfold Obligations.TwoFramesAmongGarbageAreFoundInOrder
  intro g1 g2 v1 v2 hg1 hg2 hv1 hv2
  refine ⟨?first, ?second⟩
  case first => simpa only [List.append_assoc] using scanResponse_skips_frame hg1 hv1 (g2 ++ v2.toList)
  case second => simpa only [List.append_nil] using scanResponse_skips_frame hg2 hv2 []

/-- Settles O22: the scan takes ten bytes from the stray head byte on, whatever they are. -/
theorem doubledHeadSwallowsTheNextFrame : Obligations.DoubledHeadSwallowsTheNextFrame := by
  unfold Obligations.DoubledHeadSwallowsTheNextFrame
  intro w rest _
  exact scanResponse_frame
    (w := ⟨0xAA, w.b0, w.b1, w.b2, w.b3, w.b4, w.b5, w.b6, w.b7, w.b8⟩) rfl (w.b9 :: rest)

/-! ### Bytes accounted for -/

/-- The bytes of two traces, one after the other. -/
theorem traceBytes_append (es fs : List Event) :
    traceBytes (es ++ fs) = traceBytes es ++ traceBytes fs := by
  induction es with
  | nil => rfl
  | cons e es ih => rw [List.cons_append, traceBytes, traceBytes, ih, List.append_assoc]

/-- The bytes of a trace with one more event. -/
theorem traceBytes_concat (es : List Event) (e : Event) :
    traceBytes (es ++ [e]) = traceBytes es ++ eventBytes e := by
  rw [traceBytes_append]
  simp [traceBytes]

/-- A byte step accounts for its byte once: as skipped, as collected, or as the last one of its candidate
(42_resynchronizer.md R136; 60_exceptions.md R215). -/
theorem ByteStep.takenBytes {b : Byte} {s t : State} (h : ByteStep b s t)
    (hempty : s.rxstate = .hunt → s.rxcnt = 0) : takenBytes t = takenBytes s ++ [b] := by
  have whole : s.rxcnt = 9 →
      (s.rxbuf.set 9 b).toList = s.rxbuf.toList.take s.rxcnt.val ++ [b] := fun nine => by
    rw [nine]
    exact Window.take_succ_set s.rxbuf 9 b
  unfold Machine.takenBytes
  cases h with
  | skip hunting other =>
    simp [hempty hunting, traceBytes_concat, eventBytes]
  | head hunting isHead =>
    simp [hempty hunting, isHead, State.startWindow, Window.toList]
  | store n collecting following =>
    simp [State.storeByte, following, Window.take_succ_set]
  | accept collecting nine meets =>
    simp only [acceptedState, traceBytes_concat, eventBytes, whole nine]
    simp
  | discard v collecting nine judged fails =>
    simp only [discardedState, traceBytes_concat, eventBytes, whole nine]
    simp

/-! ### A stream without a whole frame -/

/-- What a decoder has done that took the stream of `s` and waits at `t`: every byte is accounted for, and
nothing is validated, accepted or recorded (70_reset_and_hazards.md R252 (b), (c)). -/
structure TookStream (s t : State) : Prop where
  waiting : WaitingForBytes t
  verdict : t.verdict = s.verdict
  reason : t.reason = s.reason
  rspbuf : t.rspbuf = s.rspbuf
  rspvalid : t.rspvalid = s.rspvalid
  taken : Machine.takenBytes t = Machine.takenBytes s ++ s.rx

/-- An armed decoder without a byte has taken its stream. -/
theorem TookStream.refl {s : State} (ha : s.armed = true) (hx : s.rx = []) : TookStream s s :=
  ⟨⟨ha, hx⟩, rfl, rfl, rfl, rfl, by rw [hx, List.append_nil]⟩

/-- A byte step that validates nothing, and then the rest of the stream. -/
theorem TookStream.cons {b : Byte} {rest : List Byte} {s t u : State} (hx : s.rx = b :: rest)
    (hbyte : ByteStep b (s.withRx rest) t) (hempty : s.rxstate = .hunt → s.rxcnt = 0)
    (hkept : t.verdict = s.verdict ∧ t.reason = s.reason ∧ t.rspbuf = s.rspbuf ∧ t.rspvalid = s.rspvalid)
    (h : TookStream t u) : TookStream s u := by
  obtain ⟨hv, hr, hb, hl⟩ := hkept
  have htaken := hbyte.takenBytes (by exact hempty)
  obtain ⟨hrx, -⟩ := hbyte.frame
  refine ⟨h.waiting, h.verdict.trans hv, h.reason.trans hr, h.rspbuf.trans hb, h.rspvalid.trans hl, ?_⟩
  rw [h.taken, htaken, hrx, hx, List.append_assoc]
  rfl

/-- A collecting decoder takes a stream that does not reach the tenth byte. -/
theorem decRun_collect_short (bs : List Byte) {s : State} (ha : s.armed = true)
    (hs : s.rxstate = .collect) (hx : s.rx = bs) (hc : s.rxcnt.val + bs.length ≤ 9) :
    ∃ t, decRun bs.length s = .next t ∧ TookStream s t ∧ t.rxcnt.val = s.rxcnt.val + bs.length := by
  induction bs generalizing s with
  | nil => exact ⟨s, rfl, .refl ha hx, rfl⟩
  | cons b bs ih =>
    rw [List.length_cons] at hc ⊢
    have hstore := rxByteOp_collect_store (b := b) (s := s.withRx bs) hs
      (show s.rxcnt.val < 9 by omega) (n := ⟨s.rxcnt.val + 1, by omega⟩) rfl
    obtain ⟨t, hrun, htook, hcnt⟩ := ih
      (s := (s.withRx bs).storeByte b ⟨s.rxcnt.val + 1, by omega⟩) ha hs rfl
      (show s.rxcnt.val + 1 + bs.length ≤ 9 by omega)
    refine ⟨t, (decRun_succ ha hx hstore).trans hrun, ?_, hcnt.trans ?_⟩
    · exact htook.cons hx (.store _ hs rfl) (fun h => absurd (hs.symm.trans h) nofun)
        ⟨rfl, rfl, rfl, rfl⟩
    · show s.rxcnt.val + 1 + bs.length = s.rxcnt.val + (bs.length + 1)
      omega

/-- A hunting decoder takes a stream in which the scan finds no whole frame (42_resynchronizer.md R138). -/
theorem decRun_hunt_short (bs : List Byte) {s : State} (ha : s.armed = true) (hs : s.rxstate = .hunt)
    (hc : s.rxcnt = 0) (hx : s.rx = bs) (hscan : scanResponse bs = .resynchronizing) :
    ∃ t, decRun bs.length s = .next t ∧ TookStream s t ∧ t.rxcnt.val ≤ bs.length ∧
      (t.rxcnt = 0 ↔ ∀ b ∈ bs, b ≠ headByte) := by
  induction bs generalizing s with
  | nil => exact ⟨s, rfl, .refl ha hx, by simp [hc], by simp [hc]⟩
  | cons b bs ih =>
    rw [List.length_cons]
    by_cases hb : b = headByte
    · subst hb
      have hshort : bs.length < 9 := by
        by_contra hlong
        simp [scanResponse, hlong] at hscan
      obtain ⟨t, hrun, htook, hcnt⟩ := decRun_collect_short bs (s := (s.withRx bs).startWindow) ha rfl rfl
        (show 1 + bs.length ≤ 9 by omega)
      change t.rxcnt.val = 1 + bs.length at hcnt
      refine ⟨t, (decRun_succ ha hx (rxByteOp_hunt_head hs)).trans hrun, ?_, by omega, ?_⟩
      · exact htook.cons hx (.head hs rfl) (fun _ => hc) ⟨rfl, rfl, rfl, rfl⟩
      · refine ⟨fun h0 => ?_, fun hall => absurd rfl (hall headByte List.mem_cons_self)⟩
        have : t.rxcnt.val = 0 := congrArg Fin.val h0
        omega
    · rw [scanResponse_skip hb] at hscan
      obtain ⟨t, hrun, htook, hle, hzero⟩ := ih (s := (s.withRx bs).emit (.skip b)) ha hs hc rfl hscan
      refine ⟨t, (decRun_succ ha hx (rxByteOp_hunt_skip hs hb)).trans hrun, ?_, by omega, ?_⟩
      · exact htook.cons hx (.skip hs hb) (fun _ => hc) ⟨rfl, rfl, rfl, rfl⟩
      · rw [hzero, List.forall_mem_cons]
        exact (and_iff_right hb).symm

/-- Settles O20: a hunting decoder takes a stream without a whole frame byte by byte. -/
theorem scanWithoutFrameLeavesTheDecoderWaiting :
    Obligations.ScanWithoutFrameLeavesTheDecoderWaiting := by
  unfold Obligations.ScanWithoutFrameLeavesTheDecoderWaiting
  intro s ha hs hc hscan
  obtain ⟨t, hrun, htook, hle, hzero⟩ := decRun_hunt_short s.rx ha hs hc rfl hscan
  exact ⟨t, hrun, htook.waiting, htook.verdict, htook.reason, htook.rspbuf, htook.rspvalid, htook.taken,
    hle, hzero⟩

/-- Settles O23: nothing is ready, no byte is taken, and a response instruction is a window's transition. -/
theorem unarmedDecoderTakesNothing : Obligations.UnarmedDecoderTakesNothing := by
  unfold Obligations.UnarmedDecoderTakesNothing
  intro s ha
  refine ⟨by simp [decReady, ha], by simp [decStep, ha], ?_⟩
  intro i w hi
  rw [exec_of_responseWindow hi, receiveWindow_unarmed ha]

end Sys2Proof.Machine
end

section
/-!
What every step of every agent keeps: the invariant, the bytes received, the reason, the target and the end of
a wait (10_state.md section 9; 60_exceptions.md section 1).
-/

namespace Sys2Proof.Machine

/-! ### A step as the turn of one agent -/

/-- A step is a turn of HOST, DEC or TRANSPORT, a turn that passes, or a reset, on the state whose schedule
has moved on (00_scope.md R9). -/
theorem step_turn_cases (s : State) :
    ∃ ts, step s = hostStep (s.withSchedule ts) ∨ step s = decStep (s.withSchedule ts) ∨
      step s = transportStep (s.withSchedule ts) ∨ step s = .next (s.withSchedule ts) ∨
      (s.schedule.head? = some .reset ∧ step s = .next (resetEvent (s.withSchedule ts))) := by
  obtain ⟨u, ⟨rfl, -⟩ | ⟨turn, rest, -, rfl⟩, hstep⟩ := step_cases s
  · exact ⟨u.schedule, hstep⟩
  · exact ⟨rest, hstep⟩

/-- What a step that answers a next state did: a turn of HOST, a byte taken by DEC, a byte appended by
TRANSPORT, nothing, or a reset (00_scope.md R9). -/
theorem step_next_cases {s t : State} (h : step s = .next t) :
    ∃ ts, hostStep (s.withSchedule ts) = .next t ∨
      (∃ b rest, s.armed = true ∧ s.rx = b :: rest ∧ ByteStep b ((s.withSchedule ts).withRx rest) t) ∨
      (∃ b rest, s.feed = b :: rest ∧ t = arrive b ((s.withSchedule ts).withFeed rest)) ∨
      t = s.withSchedule ts ∨
      (s.schedule.head? = some .reset ∧ t = resetEvent (s.withSchedule ts)) := by
  obtain ⟨ts, hstep⟩ := step_turn_cases s
  refine ⟨ts, ?_⟩
  rcases hstep with e | e | e | e | ⟨hr, e⟩ <;> rw [e] at h
  · exact .inl h
  · rcases decStep_byteStep (s.withSchedule ts) with ⟨b, rest, v, ha, hx, e', hbyte⟩ | ⟨-, e'⟩ <;>
      (rw [e'] at h; cases h)
    · exact .inr (.inl ⟨b, rest, ha, hx, hbyte⟩)
    · exact .inr (.inr (.inr (.inl rfl)))
  · rcases transportStep_cases (s.withSchedule ts) with ⟨-, e'⟩ | ⟨b, rest, hf, e'⟩ <;>
      (rw [e'] at h; cases h)
    · exact .inr (.inr (.inr (.inl rfl)))
    · exact .inr (.inr (.inl ⟨b, rest, hf, rfl⟩))
  · cases h
    exact .inr (.inr (.inr (.inl rfl)))
  · cases h
    exact .inr (.inr (.inr (.inr ⟨hr, rfl⟩)))

/-- An arriving byte, with room and without (20_memory.md R41). -/
theorem arrive_spec (b : Byte) (s : State) :
    ((∀ depth, s.cfg.rxFifoDepth = some depth → s.rx.length < depth) →
      arrive b s = s.withRx (s.rx ++ [b])) ∧
    (∀ depth, s.cfg.rxFifoDepth = some depth → depth ≤ s.rx.length →
      ∃ kept : List Byte, arrive b s = (s.withRx kept).useFree ∧
        kept.Sublist (s.rx ++ [b]) ∧ kept.length ≤ depth) := by
  refine ⟨fun hroom => ?_, fun depth hd hfull => ?_⟩
  · cases hd : s.cfg.rxFifoDepth with
    | none => exact arrive_unbounded hd b
    | some depth => simp [arrive, hd, hroom depth hd]
  · refine ⟨(survivors (Config.overflowLoses s.freeCount) 0 (s.rx ++ [b])).take depth, ?_,
      (List.take_sublist _ _).trans (survivors_sublist _ _ _), List.length_take_le _ _⟩
    simp only [arrive, hd, if_neg (Nat.not_lt.2 hfull)]

/-- Settles O49. -/
theorem arrivalAppendsOrOverflows : Obligations.ArrivalAppendsOrOverflows := by
  unfold Obligations.ArrivalAppendsOrOverflows
  exact arrive_spec

/-- An arriving byte changes the stream, within the capacity, and the counter of free values. -/
theorem arrive_within (b : Byte) (s : State) :
    ∃ bs n, arrive b s = { s with rx := bs, freeCount := n } ∧
      ∀ depth, s.cfg.rxFifoDepth = some depth → bs.length ≤ depth := by
  obtain ⟨hroom, hfull⟩ := arrive_spec b s
  by_cases h : ∃ depth, s.cfg.rxFifoDepth = some depth ∧ depth ≤ s.rx.length
  · obtain ⟨depth, hd, hle⟩ := h
    obtain ⟨kept, e, -, hlen⟩ := hfull depth hd hle
    refine ⟨kept, _, e, fun depth' hd' => ?_⟩
    cases hd.symm.trans hd'
    exact hlen
  · have room : ∀ depth, s.cfg.rxFifoDepth = some depth → s.rx.length < depth := fun depth hd =>
      not_le.1 fun hle => h ⟨depth, hd, hle⟩
    refine ⟨_, _, hroom room, fun depth hd => ?_⟩
    simpa using room depth hd

/-! ### The invariant -/

/-- The invariant does not speak of the schedule. -/
theorem Inv.withSchedule {s : State} (h : Inv s) (ts : List Turn) : Inv (s.withSchedule ts) :=
  { h with }

/-- The invariant bounds the RX stream and does not otherwise speak of it. -/
theorem Inv.withStream {s : State} (h : Inv s) {bs : List Byte} (n : Nat)
    (hlen : ∀ depth, s.cfg.rxFifoDepth = some depth → bs.length ≤ depth) :
    Inv { s with rx := bs, freeCount := n } :=
  { h with fifoBound := hlen }

/-- The invariant holds of every initial state (10_state.md R28, R29). -/
theorem inv_initial (cfg : Config) : Inv (State.initial cfg) where
  huntIffEmpty := ⟨fun _ => rfl, fun _ => rfl⟩
  headStored h := absurd rfl h
  expectationLegal := nofun
  armedNotValid := nofun
  validFrame := nofun
  stoppedEmpty _ := rfl
  txbufWidth := by simp [State.initial, zeros]
  pendingFrame := nofun
  notBoth := nofun
  fifoBound _ _ := Nat.zero_le _
  lineWaits _ := nofun

/-- Settles O42. -/
theorem invariantHoldsAtReset : Obligations.InvariantHoldsAtReset := by
  unfold Obligations.InvariantHoldsAtReset
  exact ⟨inv_initial Config.standard, inv_initial⟩

/-- A reset restores the invariant; the stream it keeps was within its bound. -/
theorem Inv.resetEvent {s : State} (h : Inv s) : Inv (resetEvent s) :=
  { inv_initial s.cfg with fifoBound := h.fifoBound }

/-- All clauses but the last speak of the block alone. -/
theorem Inv.blockView {s : State} (h : Inv s) : Inv (blockView s) :=
  { h with lineWaits := fun _ => nofun }

/-- The invariant from its block and what the host remembers of a wait by lines. -/
theorem Inv.of_blockView {s : State} (h : Inv (Machine.blockView s))
    (hl : ∀ issued, s.line = .waiting issued → s.phase = .idle ∧ (s.armed = true ∨ s.rspvalid = true)) :
    Inv s :=
  { h with lineWaits := hl }

/-- What a turn of HOST does to the block keeps the invariant: the encoder loads a well-formed frame, and
neither engine starts while the other is active. -/
theorem Inv.hostEffect {s u : State} (h : Inv s) (he : HostEffect s u) : Inv u := by
  rcases he with rfl | ⟨t, rest, -, -, rfl⟩ | ⟨hp, ha, c, args, hn, rfl⟩ | ⟨hp, rfl⟩ | ⟨hp, n, rfl⟩ |
    ⟨ha, hp, ty, c, hty, rfl⟩
  case inl => exact h
  case inr.inl => exact { h with }
  case inr.inr.inl =>
    exact
      { h with
        txbufWidth := buildFrame_length s.cfg.layout s.tgt c args
        pendingFrame := fun _ => buildFrame_emitted s.cfg.layout s.tgt c args
        notBoth := fun hboth => absurd (ha.symm.trans hboth.2) nofun }
  case inr.inr.inr.inl =>
    exact { h with pendingFrame := nofun, notBoth := fun hboth => absurd hboth.1 nofun }
  case inr.inr.inr.inr.inl => exact { h with }
  case inr.inr.inr.inr.inr =>
    exact
      { h with
        expectationLegal := fun _ => hty
        armedNotValid := fun _ => rfl
        validFrame := nofun
        stoppedEmpty := nofun
        notBoth := fun hboth => absurd (hp.symm.trans hboth.1) nofun
        lineWaits := fun issued hl => ⟨(h.lineWaits issued hl).1, .inl rfl⟩ }

/-- A turn of HOST keeps the invariant. -/
theorem Inv.hostStep {s t : State} (h : Inv s) (hstep : hostStep s = .next t) : Inv t := by
  obtain ⟨u, hview, he⟩ := hostStep_effect hstep
  refine .of_blockView (hview ▸ (h.hostEffect he).blockView) fun issued hl => ?_
  rcases hostStep_line hstep hl with ⟨hp, ha⟩ | ⟨hls, hp, ha, hv⟩ | ⟨hls, hp⟩
  · exact ⟨hp, .inl ha⟩
  · rw [hp, ha, hv]
    exact h.lineWaits issued hls
  · exact absurd (h.lineWaits issued hls).1 hp

/-- A byte step of an armed decoder keeps the invariant. -/
theorem Inv.byteStep {b : Byte} {s t : State} (h : Inv s) (ha : s.armed = true) (hstep : ByteStep b s t) :
    Inv t := by
  cases hstep with
  | skip hunting other => exact { h with }
  | head hunting isHead =>
    exact
      { h with
        huntIffEmpty := ⟨nofun, nofun⟩
        headStored := fun _ => rfl
        stoppedEmpty := fun hu => absurd (ha.symm.trans hu) nofun }
  | store n collecting following =>
    have started : s.rxcnt ≠ 0 := fun h0 => absurd (collecting.symm.trans (h.huntIffEmpty.2 h0)) nofun
    have positive : n ≠ 0 := by
      rintro rfl
      exact absurd following (by simp)
    exact
      { h with
        huntIffEmpty := ⟨fun hh => absurd (collecting.symm.trans hh) nofun, fun h0 => absurd h0 positive⟩
        headStored := fun _ => (Window.set_b0 s.rxbuf s.rxcnt b started).trans (h.headStored started)
        stoppedEmpty := fun hu => absurd (ha.symm.trans hu) nofun }
  | accept collecting nine meets =>
    obtain ⟨h0, h9, hsum, -, -⟩ := (verdictOf_eq_accept_iff ..).1 meets
    exact
      { h with
        huntIffEmpty := ⟨fun _ => rfl, fun _ => rfl⟩
        headStored := fun hne => absurd rfl hne
        expectationLegal := nofun
        armedNotValid := nofun
        validFrame := fun _ => ⟨h0, h9, hsum.symm⟩
        stoppedEmpty := fun _ => rfl
        notBoth := fun hboth => absurd hboth.2 nofun
        lineWaits := fun issued hl => ⟨(h.lineWaits issued hl).1, .inr rfl⟩ }
  | discard v collecting nine judged fails =>
    exact
      { h with
        huntIffEmpty := ⟨fun _ => rfl, fun _ => rfl⟩
        headStored := fun hne => absurd rfl hne
        stoppedEmpty := fun _ => rfl }

/-- The invariant holds when the first byte is taken off the stream. -/
theorem Inv.tail {b : Byte} {rest : List Byte} {s : State} (h : Inv s) (hx : s.rx = b :: rest) :
    Inv (s.withRx rest) :=
  h.withStream s.freeCount fun depth hd => by
    have := h.fifoBound depth hd
    rw [hx, List.length_cons] at this
    omega

/-- A byte that arrives keeps the invariant: the stream stays within its bound. -/
theorem Inv.arrive {s : State} (h : Inv s) (b : Byte) (rest : List Byte) :
    Inv (arrive b (s.withFeed rest)) := by
  obtain ⟨bs, n, e, hlen⟩ := arrive_within b (s.withFeed rest)
  have hfeed : Inv (s.withFeed rest) := { h with }
  rw [e]
  exact hfeed.withStream n hlen

/-- Settles O43: each agent's turn keeps the invariant, and so does a reset. -/
theorem invariantIsKeptByEveryStep : Obligations.InvariantIsKeptByEveryStep := by
  unfold Obligations.InvariantIsKeptByEveryStep
  intro s t h hstep
  obtain ⟨ts, e | ⟨b, rest, ha, hx, hbyte⟩ | ⟨b, rest, -, rfl⟩ | rfl | ⟨-, rfl⟩⟩ := step_next_cases hstep
  · exact (h.withSchedule ts).hostStep e
  · exact ((h.withSchedule ts).tail hx).byteStep ha hbyte
  · exact (h.withSchedule ts).arrive b rest
  · exact h.withSchedule ts
  · exact (h.withSchedule ts).resetEvent

/-! ### The bytes received -/

/-- What a turn of HOST does to the block takes no byte. -/
theorem HostEffect.takenBytes {s u : State} (h : HostEffect s u) :
    takenBytes u = takenBytes s ∧ u.rx = s.rx ∧ u.feed = s.feed := by
  rcases h with rfl | ⟨_, _, _, _, rfl⟩ | ⟨_, _, _, _, _, rfl⟩ | ⟨_, rfl⟩ | ⟨_, _, rfl⟩ |
    ⟨_, _, _, _, _, rfl⟩
  case inr.inr.inr.inl =>
    exact ⟨by simp [Machine.takenBytes, traceBytes_concat, eventBytes], rfl, rfl⟩
  all_goals exact ⟨rfl, rfl, rfl⟩

/-- Settles O44: HOST takes no byte, DEC moves one from the stream to those taken, and an unbounded
TRANSPORT one from the feed to the stream. -/
theorem everyReceivedByteIsAccountedForOnce : Obligations.EveryReceivedByteIsAccountedForOnce := by
  unfold Obligations.EveryReceivedByteIsAccountedForOnce
  intro s t h hstep hu hreset
  obtain ⟨ts, e | ⟨b, rest, -, hx, hbyte⟩ | ⟨b, rest, hf, rfl⟩ | rfl | ⟨hr, -⟩⟩ := step_next_cases hstep
  · obtain ⟨u, hview, he⟩ := hostStep_effect e
    obtain ⟨htaken, hrx, hfeed⟩ := he.takenBytes
    have ttaken : takenBytes t = takenBytes u := (congrArg takenBytes hview :)
    have trx : t.rx = u.rx := (congrArg State.rx hview :)
    have tfeed : t.feed = u.feed := (congrArg State.feed hview :)
    rw [ttaken, trx, tfeed, htaken, hrx, hfeed]
    rfl
  · obtain ⟨hrx, -, -, hfeed⟩ := hbyte.frame
    rw [hbyte.takenBytes (by exact h.huntIffEmpty.1), hrx, hfeed, hx]
    simp only [List.append_assoc]
    rfl
  · rw [arrive_unbounded (by exact hu), hf]
    simp only [State.withRx_rx, State.withRx_feed, State.withFeed_feed, List.append_assoc]
    rfl
  · rfl
  · exact absurd hr hreset

/-! ### The reason -/

/-- A candidate that begins with the head byte has no reason 1; 6 and 7 are no reasons
(43_response_decoder.md R151). -/
theorem reasonOf_of_head {cfg : Config} {w : Window} {ty c : Byte} (h0 : w.b0 = headByte) :
    reasonOf (verdictOf cfg w ty c) ≠ 1 ∧ reasonOf (verdictOf cfg w ty c) ≠ 6 ∧
      reasonOf (verdictOf cfg w ty c) ≠ 7 := by
  rw [reasonOf_verdictOf, if_neg (not_not_intro h0)]
  split_ifs <;> decide

/-- Settles O45: only a discard records a reason other than 0, and the candidate then begins with the head
byte. -/
theorem reasonIsNeverBadHead : Obligations.ReasonIsNeverBadHead := by
  unfold Obligations.ReasonIsNeverBadHead
  intro s t h hstep hreason
  obtain ⟨ts, e | ⟨b, rest, -, -, hbyte⟩ | ⟨b, rest, -, rfl⟩ | rfl | ⟨-, rfl⟩⟩ := step_next_cases hstep
  · obtain ⟨u, hview, he⟩ := hostStep_effect e
    have treason : t.reason = u.reason := (congrArg State.reason hview :)
    have ureason : u.reason = s.reason := by
      rcases he with rfl | ⟨_, _, _, _, rfl⟩ | ⟨_, _, _, _, _, rfl⟩ | ⟨_, rfl⟩ | ⟨_, _, rfl⟩ |
        ⟨_, _, _, _, _, rfl⟩ <;> rfl
    rwa [treason, ureason]
  · cases hbyte with
    | skip | head | store => exact hreason
    | accept => exact ⟨nofun, nofun, nofun⟩
    | discard v collecting nine judged fails =>
      have started : s.rxcnt ≠ 0 := fun h0 => absurd (h0.symm.trans nine) (by decide)
      subst judged
      exact reasonOf_of_head (h.headStored started)
  · obtain ⟨bs, n, e, -⟩ := arrive_within b ((s.withSchedule ts).withFeed rest)
    rw [e]
    exact hreason
  · exact hreason
  · exact ⟨nofun, nofun, nofun⟩

/-! ### The target and the configuration -/

/-- Settles O46: what HOST does to the block leaves the configuration and, `SETTGT` apart, the target. -/
theorem onlySetTgtAndResetWriteTgt : Obligations.OnlySetTgtAndResetWriteTgt := by
  unfold Obligations.OnlySetTgtAndResetWriteTgt
  intro s t hstep
  obtain ⟨ts, e | ⟨b, rest, -, -, hbyte⟩ | ⟨b, rest, -, rfl⟩ | rfl | ⟨hr, rfl⟩⟩ := step_next_cases hstep
  · obtain ⟨u, hview, he⟩ := hostStep_effect e
    have tcfg : t.cfg = u.cfg := (congrArg State.cfg hview :)
    have ttgt : t.tgt = u.tgt := (congrArg State.tgt hview :)
    rw [tcfg, ttgt]
    rcases he with rfl | ⟨v, rest, hp, hg, rfl⟩ | ⟨_, _, _, _, _, rfl⟩ | ⟨_, rfl⟩ | ⟨_, _, rfl⟩ |
      ⟨_, _, _, _, _, rfl⟩
    case inr.inl => exact ⟨rfl, .inr (.inl ⟨v, rest, hp, hg, rfl⟩)⟩
    all_goals exact ⟨rfl, .inl rfl⟩
  · obtain ⟨-, hcfg, htgt, -⟩ := hbyte.frame
    exact ⟨hcfg, .inl htgt⟩
  · obtain ⟨bs, n, e, -⟩ := arrive_within b ((s.withSchedule ts).withFeed rest)
    rw [e]
    exact ⟨rfl, .inl rfl⟩
  · exact ⟨rfl, .inl rfl⟩
  · exact ⟨rfl, .inr (.inr ⟨hr, rfl⟩)⟩

/-! ### The end of a wait -/

/-- Settles O47: of all that can happen to an armed decoder, a reset apart, acceptance alone clears ARMED. -/
theorem onlyAcceptanceOrResetEndsAWait : Obligations.OnlyAcceptanceOrResetEndsAWait := by
  unfold Obligations.OnlyAcceptanceOrResetEndsAWait
  intro s t hstep ha hend
  have still : t.armed = s.armed → False := fun h => absurd (hend.symm.trans (h.trans ha)) nofun
  obtain ⟨ts, e | ⟨b, rest, -, hx, hbyte⟩ | ⟨b, rest, hf, rfl⟩ | rfl | ⟨hr, -⟩⟩ := step_next_cases hstep
  · obtain ⟨u, hview, he⟩ := hostStep_effect e
    have tarmed : t.armed = u.armed := (congrArg State.armed hview :)
    refine (still (tarmed.trans ?_)).elim
    rcases he with rfl | ⟨_, _, _, _, rfl⟩ | ⟨_, _, _, _, _, rfl⟩ | ⟨_, rfl⟩ | ⟨_, _, rfl⟩ |
      ⟨_, _, _, _, _, rfl⟩
    case inr.inr.inr.inr.inr => exact ha.symm
    all_goals rfl
  · cases hbyte with
    | skip | head | store | discard => exact (still rfl).elim
    | accept collecting nine meets =>
      obtain ⟨h0, h9, hsum, htype, hcmd⟩ := (verdictOf_eq_accept_iff ..).1 meets
      exact .inr ⟨rfl, h0, h9, htype, hsum.symm, hcmd, rfl, rfl, rfl⟩
  · obtain ⟨bs, n, e, -⟩ := arrive_within b ((s.withSchedule ts).withFeed rest)
    exact (still (by rw [e]; rfl)).elim
  · exact (still rfl).elim
  · exact .inl hr

/-! ### Reset and the turns that cannot refuse -/

/-- Settles O50: the step is the reset event on the state whose schedule has moved on. -/
theorem resetRestoresTheStatedValues : Obligations.ResetRestoresTheStatedValues := by
  unfold Obligations.ResetRestoresTheStatedValues
  intro s ts hs
  refine ⟨resetEvent (s.withSchedule ts), ?_, ?_⟩
  · simp [step, systemStep, takeTurn, hs]
  · exact ⟨rfl, rfl, rfl, rfl, rfl, rfl, rfl, rfl, rfl, rfl, rfl, rfl, rfl, rfl, rfl, rfl, rfl, rfl, rfl⟩

/-- Settles O51. -/
theorem resetStateHasTheStatedValues : Obligations.ResetStateHasTheStatedValues := by
  unfold Obligations.ResetStateHasTheStatedValues
  exact ⟨rfl, rfl, rfl, rfl, rfl, rfl, rfl, rfl⟩

/-- Settles O24. -/
theorem failedReadChangesNothing : Obligations.FailedReadChangesNothing := by
  unfold Obligations.FailedReadChangesNothing
  intro s rest hs
  simp [step, systemStep, takeTurn, hs, State.withSchedule]

end Sys2Proof.Machine
end

section
/-!
The rows of the command frames: which frames fit a row, decode of encode and encode of decode
(30_encoding.md section 3; 41_command_encoder.md section 4).
-/

namespace Sys2Proof

/-! ### When a frame fits a row -/

/-- `RAW` is the row behind the named ones. -/
theorem raw_not_named : CmdForm.raw ∉ namedCmdForms := by decide

/-- The sub-opcode a named command row fixes: 1 sets, 0 gets (30_encoding.md R73). -/
def rowSub : CmdForm → Byte
  | .setMode | .setRun | .setDuty => 1
  | .getMode | .query | .setId | .getRun | .getFw | .getDuty | .raw => 0

/-- The largest operand byte a named command row takes (30_encoding.md R82). -/
def rowBound : CmdForm → Byte
  | .setMode | .setRun => 1
  | .setDuty => 31
  | .getMode | .query | .setId | .getRun | .getFw | .getDuty | .raw => 0

/-- What a command frame must be, beside its shape, to fit a named row: command byte, sub-opcode and operand
are the row's, and the argument bytes the row fixes are zero. -/
structure CmdRowFits (l : Layout) (f : List Byte) (g : CmdForm) : Prop where
  command : some (byteAt f 2) = rowCommand g
  sub : byteAt f 3 = rowSub g
  operand : byteAt f 4 ≤ rowBound g
  middle : bytesFromTo f 5 12 = zeros 8
  last : l = .l19 → g ≠ .setId → byteAt f 13 = 0 ∧ byteAt f 14 = 0

/-- The bytes of an `L17` frame, named. -/
theorem bytes_of_shape_l17 {f : List Byte} (h : CommandShape .l17 f) :
    ∃ c a0 a1 a2 a3 a4 a5 a6 a7 a8 a9 lo hi k,
      f = [0xAA, 0xB4, c, a0, a1, a2, a3, a4, a5, a6, a7, a8, a9, lo, hi, k, 0xAB] := by
  obtain ⟨hlen, hhead, hmarker, htail⟩ := h
  match f, hlen with
  | [b0, b1, c, a0, a1, a2, a3, a4, a5, a6, a7, a8, a9, lo, hi, k, b16], _ =>
    obtain rfl : b0 = headByte := hhead
    obtain rfl : b1 = markerByte := hmarker
    obtain rfl : b16 = tailByte := htail
    exact ⟨c, a0, a1, a2, a3, a4, a5, a6, a7, a8, a9, lo, hi, k, rfl⟩

/-- The bytes of an `L19` frame, named. -/
theorem bytes_of_shape_l19 {f : List Byte} (h : CommandShape .l19 f) :
    ∃ c a0 a1 a2 a3 a4 a5 a6 a7 a8 a9 a10 a11 lo hi k,
      f = [0xAA, 0xB4, c, a0, a1, a2, a3, a4, a5, a6, a7, a8, a9, a10, a11, lo, hi, k, 0xAB] := by
  obtain ⟨hlen, hhead, hmarker, htail⟩ := h
  match f, hlen with
  | [b0, b1, c, a0, a1, a2, a3, a4, a5, a6, a7, a8, a9, a10, a11, lo, hi, k, b18], _ =>
    obtain rfl : b0 = headByte := hhead
    obtain rfl : b1 = markerByte := hmarker
    obtain rfl : b18 = tailByte := htail
    exact ⟨c, a0, a1, a2, a3, a4, a5, a6, a7, a8, a9, a10, a11, lo, hi, k, rfl⟩

/-- The fit of a row as one conjunction. -/
theorem cmdRowFits_iff {l : Layout} {f : List Byte} {g : CmdForm} :
    CmdRowFits l f g ↔ some (byteAt f 2) = rowCommand g ∧ byteAt f 3 = rowSub g ∧
      byteAt f 4 ≤ rowBound g ∧ bytesFromTo f 5 12 = zeros 8 ∧
      (l = .l19 → g ≠ .setId → byteAt f 13 = 0 ∧ byteAt f 14 = 0) :=
  ⟨fun h => ⟨h.command, h.sub, h.operand, h.middle, h.last⟩,
    fun ⟨command, sub, operand, middle, last⟩ => ⟨command, sub, operand, middle, last⟩⟩

/-- A frame of the right shape is matched by a named row exactly when it fits it: the mask leaves out the
selector, the checksum byte and the operand bits (30_encoding.md R82). -/
theorem cmdRow_matches_iff_fits {l : Layout} {f : List Byte} {g : CmdForm} (h : CommandShape l f)
    (hg : g ∈ namedCmdForms) : (cmdRow l g).matches f = true ↔ CmdRowFits l f g := by
  rw [cmdRow_matches h.length, cmdRowFits_iff]
  cases l with
  | l17 =>
    obtain ⟨c, a0, a1, a2, a3, a4, a5, a6, a7, a8, a9, lo, hi, k, rfl⟩ := bytes_of_shape_l17 h
    cases g with
    | raw => exact absurd hg raw_not_named
    | _ =>
      simp [rowMaskBytes, rowPatternBytes, rowCommand, rowSub, rowBound, zeros, cmdLen, byteAt,
        bytesFromTo, byte_and_all, byte_and_oneBit, byte_and_fiveBits, List.replicate]
  | l19 =>
    obtain ⟨c, a0, a1, a2, a3, a4, a5, a6, a7, a8, a9, a10, a11, lo, hi, k, rfl⟩ := bytes_of_shape_l19 h
    cases g with
    | raw => exact absurd hg raw_not_named
    | _ =>
      simp [rowMaskBytes, rowPatternBytes, rowCommand, rowSub, rowBound, zeros, cmdLen, byteAt,
        bytesFromTo, byte_and_all, byte_and_oneBit, byte_and_fiveBits, List.replicate, and_assoc]

/-- Command byte and sub-opcode tell the named rows apart (30_encoding.md R73). -/
theorem named_eq_of_rowCommand_of_rowSub {g g' : CmdForm} (hg : g ∈ namedCmdForms)
    (hg' : g' ∈ namedCmdForms) (hc : rowCommand g = rowCommand g') (hs : rowSub g = rowSub g') :
    g = g' := by
  have key : ∀ g ∈ namedCmdForms, ∀ g' ∈ namedCmdForms, rowCommand g = rowCommand g' →
      rowSub g = rowSub g' → g = g' := by decide
  exact key g hg g' hg' hc hs

/-- A frame fits the named row it is read by; `RAW` reads the rest (30_encoding.md R82). -/
theorem cmdFormOf_fits {l : Layout} {f : List Byte} (h : CommandShape l f) :
    cmdFormOf l f = .raw ∨ (cmdFormOf l f ∈ namedCmdForms ∧ CmdRowFits l f (cmdFormOf l f)) := by
  cases hfind : namedCmdForms.find? fun g => (cmdRow l g).matches f with
  | none => exact .inl (by simp [cmdFormOf, hfind])
  | some g =>
    have hrow : cmdFormOf l f = g := by simp [cmdFormOf, hfind]
    have hg := List.mem_of_find?_eq_some hfind
    rw [hrow]
    exact .inr ⟨hg, (cmdRow_matches_iff_fits h hg).1
      (List.find?_some (p := fun g => (cmdRow l g).matches f) hfind)⟩

/-- A frame is read by the named row it fits (30_encoding.md R82). -/
theorem cmdFormOf_of_fits {l : Layout} {f : List Byte} {g : CmdForm} (h : CommandShape l f)
    (hg : g ∈ namedCmdForms) (hfit : CmdRowFits l f g) : cmdFormOf l f = g := by
  have hmatch := (cmdRow_matches_iff_fits h hg).2 hfit
  cases hfind : namedCmdForms.find? fun g => (cmdRow l g).matches f with
  | none => exact absurd hmatch (List.find?_eq_none.1 hfind g hg)
  | some g' =>
    have hrow : cmdFormOf l f = g' := by simp [cmdFormOf, hfind]
    have hg' := List.mem_of_find?_eq_some hfind
    have hfit' := (cmdRow_matches_iff_fits h hg').1
      (List.find?_some (p := fun g => (cmdRow l g).matches f) hfind)
    rw [hrow]
    exact named_eq_of_rowCommand_of_rowSub hg' hg (hfit'.command.symm.trans hfit.command)
      (hfit'.sub.symm.trans hfit.sub)

/-! ### Decode of encode -/

/-- The row of a command instruction. -/
def commandForm : Instr → CmdForm
  | .getMode => .getMode
  | .setMode _ => .setMode
  | .query => .query
  | .setId _ => .setId
  | .getRun => .getRun
  | .setRun _ => .setRun
  | .getFw => .getFw
  | .getDuty => .getDuty
  | .setDuty _ => .setDuty
  | .raw .. | .meas .. | .ackMode .. | .ackId .. | .ackRun .. | .ackFw .. | .ackDuty ..
  | .ackOther .. => .raw

/-- A command instruction is encoded by the frame builder (41_command_encoder.md R100). -/
theorem encode_command {i : Instr} (l : Layout) (tgt : Half) (h : responseWindow i = none) :
    encode l tgt i = buildFrame l tgt (commandByte i) (argumentBytes i) := by
  simp [encode, h]

/-- The argument bytes between operand and selector of a built frame. -/
theorem buildFrame_middle (l : Layout) (tgt : Half) (c : Byte) (args : List Byte) :
    bytesFromTo (buildFrame l tgt c args) 5 12 =
      [args.getD 2 0, args.getD 3 0, args.getD 4 0, args.getD 5 0, args.getD 6 0, args.getD 7 0,
        args.getD 8 0, args.getD 9 0] := by
  cases l with
  | l17 => rw [buildFrame_l17_getD]; rfl
  | l19 => rw [buildFrame_l19_getD]; rfl

/-- A built frame fits a row when its command byte and its arguments are the row's. -/
theorem buildFrame_fits {g : CmdForm} (l : Layout) (tgt : Half) {c : Byte} {args : List Byte}
    (hc : some c = rowCommand g) (hsub : args.getD 0 0 = rowSub g)
    (hoperand : args.getD 1 0 ≤ rowBound g) (hmiddle : ∀ k, 2 ≤ k → k < 10 → args.getD k 0 = 0)
    (hlast : g ≠ .setId → args.getD 10 0 = 0 ∧ args.getD 11 0 = 0) :
    CmdRowFits l (buildFrame l tgt c args) g where
  command := by
    obtain ⟨-, -, hcmd, -⟩ := buildFrame_fixedBytes l tgt c args
    rw [hcmd, hc]
  sub := (buildFrame_argument l tgt c args 0 (by omega)).trans hsub
  operand := by
    rw [buildFrame_argument l tgt c args 1 (by omega)]
    exact hoperand
  middle := by
    rw [buildFrame_middle]
    simp only [hmiddle, le_refl, Nat.reduceLeDiff, Nat.reduceLT]
    rfl
  last := by
    rintro rfl hg
    obtain ⟨h10, h11, -, -⟩ := buildFrame_l19_selector tgt c args
    rw [h10, h11]
    exact hlast hg

/-- A built frame with at most two arguments fits a row when these are the row's. -/
theorem buildFrame_fits_short {g : CmdForm} (l : Layout) (tgt : Half) {c : Byte} {args : List Byte}
    (hn : args.length ≤ 2) (hc : some c = rowCommand g) (hsub : args.getD 0 0 = rowSub g)
    (hoperand : args.getD 1 0 ≤ rowBound g) : CmdRowFits l (buildFrame l tgt c args) g :=
  have padding : ∀ k, 2 ≤ k → args.getD k 0 = 0 := fun _ hk =>
    List.getD_eq_default args 0 (le_trans hn hk)
  buildFrame_fits l tgt hc hsub hoperand (fun k hk _ => padding k hk)
    fun _ => ⟨padding 10 (by omega), padding 11 (by omega)⟩

/-- The frame of a well-formed named command fits the command's row. -/
theorem encode_fits {i : Instr} (l : Layout) (tgt : Half) (hwf : i.wf = true)
    (hg : commandForm i ∈ namedCmdForms) :
    CmdRowFits l (buildFrame l tgt (commandByte i) (argumentBytes i)) (commandForm i) := by
  cases i with
  | getMode | query | getRun | getFw | getDuty =>
    exact buildFrame_fits_short l tgt (by decide) rfl rfl (BitVec.le_refl _)
  | setMode v | setRun v | setDuty v =>
    exact buildFrame_fits_short l tgt (by simp [argumentBytes]) rfl rfl (of_decide_eq_true hwf)
  | setId n =>
    refine buildFrame_fits l tgt rfl rfl (BitVec.le_refl _) (fun k _ hk => ?_) fun hne => absurd rfl hne
    interval_cases k <;> rfl
  | _ => exact absurd hg raw_not_named

/-- A row reads the operands of a named command back from its frame; under `L17` the ID stands in the
selector's place unless it is zero (41_command_encoder.md R106). -/
theorem readCommand_encode {i : Instr} (l : Layout) (tgt : Half) (hg : commandForm i ∈ namedCmdForms)
    (hid : ¬ (l = .l17 ∧ i = .setId 0)) :
    readCommand (buildFrame l tgt (commandByte i) (argumentBytes i)) (commandForm i) = i := by
  cases i with
  | getMode | query | getRun | getFw | getDuty => rfl
  | setMode v | setRun v | setDuty v =>
    simp only [commandForm, readCommand, buildFrame_argument l tgt _ _ 1 (by omega)]
    rfl
  | setId n =>
    have bytes : byteAt (buildFrame l tgt 0x05 (zeros 10 ++ [lo8 n, hi8 n])) 13 = lo8 n ∧
        byteAt (buildFrame l tgt 0x05 (zeros 10 ++ [lo8 n, hi8 n])) 14 = hi8 n := by
      cases l with
      | l17 =>
        have hne : ¬ (lo8 n = 0 ∧ hi8 n = 0) := fun hz => hid ⟨rfl, by rw [(lo8_hi8_eq_zero n).1 hz]⟩
        rw [setIdFrame_l17 (selectorL17_of_not_zero hne)]
        exact ⟨rfl, rfl⟩
      | l19 =>
        rw [setIdFrame_l19]
        exact ⟨rfl, rfl⟩
    simp only [commandForm, readCommand, commandByte, argumentBytes, bytes.1, bytes.2, u16le_lo8_hi8]
  | _ => exact absurd hg raw_not_named

/-- A built frame with no argument bytes in the selector's place carries the target
(41_command_encoder.md R101). -/
theorem buildFrame_selector_eq_target (l : Layout) (tgt : Half) (c : Byte) {args : List Byte}
    (h : l = .l19 ∨ (args.getD 10 0 = 0 ∧ args.getD 11 0 = 0)) :
    u16le (byteAt (buildFrame l tgt c args) (selOff l)) (byteAt (buildFrame l tgt c args) (selOff l + 1)) =
      targetOrAny tgt := by
  cases l with
  | l17 =>
    obtain ⟨hlo, hhi⟩ := buildFrame_l17_selectorBytes tgt c args
    simp only [selOff, hlo, hhi, selectorL17_of_zero (h.resolve_left nofun), u16le_lo8_hi8]
  | l19 =>
    obtain ⟨-, -, hlo, hhi⟩ := buildFrame_l19_selector tgt c args
    simp only [selOff, hlo, hhi, u16le_lo8_hi8]

/-- A named command other than `SET_ID` leaves the selector's place to the target. -/
theorem argumentBytes_selector_zero {i : Instr} (hg : commandForm i ∈ namedCmdForms)
    (hid : ∀ n, i ≠ .setId n) :
    (argumentBytes i).getD 10 0 = 0 ∧ (argumentBytes i).getD 11 0 = 0 := by
  cases i with
  | getMode | query | getRun | getFw | getDuty | setMode v | setRun v | setDuty v => exact ⟨rfl, rfl⟩
  | setId n => exact absurd rfl (hid n)
  | _ => exact absurd hg raw_not_named

/-- The command instructions other than `RAW` have a row of their own. -/
theorem commandForm_named {i : Instr} (hc : responseWindow i = none) (hraw : ∀ c args, i ≠ .raw c args) :
    commandForm i ∈ namedCmdForms := by
  cases i with
  | raw c args => exact absurd rfl (hraw c args)
  | getMode | setMode | query | setId | getRun | setRun | getFw | getDuty | setDuty =>
    simp [commandForm, namedCmdForms]
  | _ => cases hc

/-- Settles O35: the frame fits the command's row, which is then the row it is read by. -/
theorem decodeAfterEncodeNamedCommands : Obligations.DecodeAfterEncodeNamedCommands := by
  unfold Obligations.DecodeAfterEncodeNamedCommands
  intro l tgt i hwf hc hraw hid
  have hg := commandForm_named hc hraw
  have hrow := cmdFormOf_of_fits (buildFrame_commandShape l tgt _ _) hg (encode_fits l tgt hwf hg)
  rw [encode_command l tgt hc]
  let f := buildFrame l tgt (commandByte i) (argumentBytes i)
  refine ⟨u16le (byteAt f (selOff l)) (byteAt f (selOff l + 1)), ?decoded, ?newId, ?target⟩
  case decoded =>
    rw [decodeCommand_of_shape (buildFrame_commandShape l tgt _ _) (buildFrame_checksumByte l tgt _ _), hrow,
      readCommand_encode l tgt hg hid]
  case newId =>
    rintro rfl n rfl
    have hread := readCommand_encode .l17 tgt hg hid
    exact Instr.setId.inj hread
  case target =>
    intro hplace
    exact buildFrame_selector_eq_target l tgt _ (hplace.imp_right (argumentBytes_selector_zero hg))

/-! ### Encode of decode -/

/-- What the command decoder takes (30_encoding.md R82; 41_command_encoder.md R115). -/
theorem decodeCommand_eq_ok {l : Layout} {f : List Byte} {i : Instr} {sel : Half}
    (h : decodeCommand l f = .ok (i, sel)) :
    CommandShape l f ∧ byteAt f (chkOff l) = commandChecksum l f ∧ i = readCommand f (cmdFormOf l f) ∧
      sel = u16le (byteAt f (selOff l)) (byteAt f (selOff l + 1)) := by
  have hshape : CommandShape l f := by
    simp only [decodeCommand, commandFields, frameFields] at h
    split_ifs at h with hlen hhead hmarker htail hsum
    exact ⟨not_not.1 hlen, not_not.1 hhead, not_not.1 hmarker, not_not.1 htail⟩
  by_cases hsum : byteAt f (chkOff l) = commandChecksum l f
  · rw [decodeCommand_of_shape hshape hsum] at h
    cases h
    exact ⟨hshape, hsum, rfl, rfl⟩
  · rw [decodeCommand_badChecksum hshape hsum] at h
    cases h

/-- The encoder builds a frame again from its command byte and its arguments, its selector being the target.
Under `L17` the arguments may leave the selector's place zero (41_command_encoder.md R101). -/
theorem buildFrame_of_fields {l : Layout} {f : List Byte} {sel : Half} {args : List Byte}
    (h : CommandShape l f) (hsum : byteAt f (chkOff l) = commandChecksum l f)
    (hsel : sel = u16le (byteAt f (selOff l)) (byteAt f (selOff l + 1))) (hne : sel ≠ 0)
    (hargs : padArgs args = bytesFromTo f 3 14 ∨
      (l = .l17 ∧ padArgs args = (bytesFromTo f 3 14).take 10 ++ [0, 0])) :
    buildFrame l sel (byteAt f 2) args = f := by
  have target : targetOrAny sel = sel := targetOrAny_of_ne_zero hne
  rw [← buildFrame_padArgs]
  cases l with
  | l17 =>
    obtain ⟨c, a0, a1, a2, a3, a4, a5, a6, a7, a8, a9, lo, hi, k, rfl⟩ := bytes_of_shape_l17 h
    have hsel' : sel = u16le lo hi := hsel
    have hk : k = checksum [c, a0, a1, a2, a3, a4, a5, a6, a7, a8, a9, lo, hi] := hsum
    have place : ∀ {x y : Byte}, (x = lo ∧ y = hi) ∨ (x = 0 ∧ y = 0) → selectorL17 sel x y = (lo, hi) := by
      rintro x y (⟨rfl, rfl⟩ | hz)
      · exact selectorL17_of_not_zero fun hz => hne (hsel'.trans ((u16le_eq_zero x y).2 hz))
      · rw [selectorL17_of_zero hz, target, hsel', lo8_u16le, hi8_u16le]
    rcases hargs with hargs | ⟨-, hargs⟩
    · rw [hargs]
      refine (buildFrame_l17 sel c a0 a1 a2 a3 a4 a5 a6 a7 a8 a9 lo hi).trans ?_
      rw [place (.inl ⟨rfl, rfl⟩), hk]
    · rw [hargs]
      refine (buildFrame_l17 sel c a0 a1 a2 a3 a4 a5 a6 a7 a8 a9 0 0).trans ?_
      rw [place (.inr ⟨rfl, rfl⟩), hk]
  | l19 =>
    obtain ⟨c, a0, a1, a2, a3, a4, a5, a6, a7, a8, a9, a10, a11, lo, hi, k, rfl⟩ := bytes_of_shape_l19 h
    have hsel' : sel = u16le lo hi := hsel
    have hk : k = checksum [c, a0, a1, a2, a3, a4, a5, a6, a7, a8, a9, a10, a11, lo, hi] := hsum
    rw [hargs.resolve_right fun h17 => nomatch h17.1]
    refine (buildFrame_l19 sel c a0 a1 a2 a3 a4 a5 a6 a7 a8 a9 a10 a11).trans ?_
    rw [target, hsel', lo8_u16le, hi8_u16le, hk]

/-- The argument region of a frame: sub-opcode, operand, eight bytes, and the pair before or in the
selector's place. -/
theorem region_of_shape {l : Layout} {f : List Byte} (h : CommandShape l f) :
    bytesFromTo f 3 14 =
      [byteAt f 3, byteAt f 4] ++ bytesFromTo f 5 12 ++ [byteAt f 13, byteAt f 14] := by
  cases l with
  | l17 =>
    obtain ⟨c, a0, a1, a2, a3, a4, a5, a6, a7, a8, a9, lo, hi, k, rfl⟩ := bytes_of_shape_l17 h
    rfl
  | l19 =>
    obtain ⟨c, a0, a1, a2, a3, a4, a5, a6, a7, a8, a9, a10, a11, lo, hi, k, rfl⟩ := bytes_of_shape_l19 h
    rfl

/-- What a fitting row reads is well formed, and its command byte is the frame's. -/
theorem readCommand_of_fits {l : Layout} {f : List Byte} {g : CmdForm} (hg : g ∈ namedCmdForms)
    (hfit : CmdRowFits l f g) :
    (readCommand f g).wf = true ∧ commandByte (readCommand f g) = byteAt f 2 := by
  have hc := hfit.command
  have hoperand := hfit.operand
  cases g with
  | raw => exact absurd hg raw_not_named
  | setMode | setRun | setDuty => exact ⟨decide_eq_true hoperand, (Option.some.inj hc).symm⟩
  | getMode | query | setId | getRun | getFw | getDuty => exact ⟨rfl, (Option.some.inj hc).symm⟩

/-- What a fitting row reads has the frame's arguments, with zeros for a selector it does not read. -/
theorem padArgs_readCommand_of_fits {l : Layout} {f : List Byte} {g : CmdForm} (h : CommandShape l f)
    (hg : g ∈ namedCmdForms) (hfit : CmdRowFits l f g) :
    padArgs (argumentBytes (readCommand f g)) = bytesFromTo f 3 14 ∨
      (l = .l17 ∧ padArgs (argumentBytes (readCommand f g)) = (bytesFromTo f 3 14).take 10 ++ [0, 0]) := by
  rw [region_of_shape h, hfit.middle, hfit.sub]
  have zeroOperand : rowBound g = 0 → byteAt f 4 = 0 := fun hb => by
    have := hfit.operand
    rw [hb] at this
    exact BitVec.le_zero_iff.1 this
  by_cases hid : g = .setId
  · subst hid
    rw [zeroOperand rfl]
    left
    simp [readCommand, argumentBytes, rowSub, zeros, padArgs, nArg, List.replicate]
  · have args : padArgs (argumentBytes (readCommand f g)) =
        [rowSub g, byteAt f 4] ++ zeros 8 ++ [0, 0] := by
      cases g with
      | raw => exact absurd hg raw_not_named
      | setId => exact absurd rfl hid
      | setMode | setRun | setDuty => rfl
      | getMode | query | getRun | getFw | getDuty => rw [zeroOperand rfl]; rfl
    cases l with
    | l17 => exact .inr ⟨rfl, args⟩
    | l19 =>
      obtain ⟨h13, h14⟩ := hfit.last rfl hid
      rw [h13, h14]
      exact .inl args

/-- Settles O37: the decoded instruction has the frame's command byte and arguments, from which the encoder
builds the frame again. -/
theorem encodeAfterDecodeCommandFrames : Obligations.EncodeAfterDecodeCommandFrames := by
  unfold Obligations.EncodeAfterDecodeCommandFrames
  intro l f i sel h hne
  obtain ⟨hshape, hsum, rfl, hsel⟩ := decodeCommand_eq_ok h
  rw [encode_command l sel (Machine.responseWindow_readCommand f _)]
  rcases cmdFormOf_fits hshape with hraw | ⟨hg, hfit⟩
  · have hlen : (bytesFromTo f 3 14).length = 12 := by
      have hlong : 17 ≤ f.length := by rw [hshape.length]; cases l <;> decide
      simp only [bytesFromTo, List.length_take, List.length_drop]
      omega
    rw [hraw]
    exact ⟨buildFrame_of_fields hshape hsum hsel hne (.inl (padArgs_of_length _ hlen)),
      decide_eq_true hlen.le⟩
  · obtain ⟨hwf, hc⟩ := readCommand_of_fits hg hfit
    rw [hc]
    exact ⟨buildFrame_of_fields hshape hsum hsel hne (padArgs_readCommand_of_fits hshape hg hfit), hwf⟩

end Sys2Proof
end

section
/-!
The lines of the host's program: which step runs a line, `TXWRITE` and its retry, `SETTGT`, `ARM`, `AWAIT`, an
issued command and a received response (41_command_encoder.md section 3; 42_resynchronizer.md section 1).
-/

namespace Sys2Proof.Machine

/-! ### Which agent the step moves -/

/-- With nothing scheduled a ready host moves (log entry 5). -/
theorem step_of_hostReady {s : State} (hs : s.schedule = []) (h : hostReady s = true) :
    step s = hostStep s := by
  simp [step, systemStep, autonomousStep, hs, h]

/-- With nothing scheduled and the host not ready, a ready decoder moves (log entry 5). -/
theorem step_of_decReady {s : State} (hs : s.schedule = []) (hh : hostReady s = false)
    (hd : decReady s = true) : step s = decStep s := by
  simp [step, systemStep, autonomousStep, hs, hh, hd]

/-- Where nobody has a step the machine stands still (log entry 5). -/
theorem step_of_blocked {s : State} (hs : s.schedule = []) (hh : hostReady s = false)
    (hd : decReady s = false) (hf : s.feed = []) : step s = .next s := by
  simp [step, systemStep, autonomousStep, transportReady, hs, hh, hd, hf]

/-- A scheduled turn is taken on the state whose schedule has moved on (log entry 5). -/
theorem step_of_schedule {s : State} {turn : Turn} {ts : List Turn} (hs : s.schedule = turn :: ts) :
    step s = takeTurn turn (s.withSchedule ts) := by
  simp [step, systemStep, hs]

/-- An idle host with no accepted response to take issues the next line of its program. -/
theorem hostStep_program {s : State} {op : HostOp} {rest : List HostOp} (hp : s.phase = .idle)
    (hl : acceptedLine s = none) (hg : s.program = op :: rest) :
    hostStep s = hostOperation op rest s := by
  simp [hostStep, hp, hl, hg]

/-- A line other than `TXWRITE` and `AWAIT` never blocks. -/
theorem hostReady_program {s : State} {op : HostOp} {rest : List HostOp} (hp : s.phase = .idle)
    (hg : s.program = op :: rest) (hw : op ≠ .txWrite) (ha : op ≠ .await) : hostReady s = true := by
  simp only [hostReady, hp, hg]
  cases op <;> simp_all

/-- The step at such a line, with nothing scheduled, is the line's operation. -/
theorem step_program {s : State} {op : HostOp} {rest : List HostOp} (hs : s.schedule = [])
    (hp : s.phase = .idle) (hl : acceptedLine s = none) (hg : s.program = op :: rest)
    (hw : op ≠ .txWrite) (ha : op ≠ .await) : step s = hostOperation op rest s := by
  rw [step_of_hostReady hs (hostReady_program hp hg hw ha), hostStep_program hp hl hg]

/-! ### `TXWRITE` -/

/-- `TXWRITE` with nothing pending (41_command_encoder.md R112). -/
theorem txWriteOp_nothing {s : State} (h : s.txpend = false) (a : WriteAnswer) :
    txWriteOp a s = .refused .nothingToSend := if_pos h

/-- `TXWRITE` answered ok (41_command_encoder.md R112). -/
theorem txWriteOp_ok {s : State} (h : s.txpend = true) :
    txWriteOp .ok s = .next (s.frameSent.emit (.tx s.txbuf)) := by
  simp [txWriteOp, h]

/-- `TXWRITE` answered by an error (20_memory.md R43). -/
theorem txWriteOp_error {s : State} (h : s.txpend = true) (n : Nat) :
    txWriteOp (.error n) s = .next (s.frameFailed n) := by
  simp [txWriteOp, h]

/-- `TXWRITE` answered by a short write (20_memory.md R45). -/
theorem txWriteOp_short {s : State} (h : s.txpend = true) (n : Nat) :
    txWriteOp (.short n) s = .refused .shortWrite := by
  simp [txWriteOp, h]

/-- The sleep frame is the one that names `SET_RUN 0` (44_host_sequences.md R189). -/
theorem isSleepFrame_iff (l : Layout) (f : List Byte) :
    isSleepFrame l f = true ↔ issuedInstruction l f = .ok (.setRun 0) := by
  unfold isSleepFrame
  cases issuedInstruction l f with
  | ok i => simp
  | error e => simp

/-- The end of `sleep` where the host is idle already (44_host_sequences.md R189). -/
theorem finishSleep_of_idle {s : State} (h : s.phase = .idle) :
    finishSleep s = (s.withCache { s.cache with run := some 0 }).deliver (.value 0) := by
  simp [finishSleep, State.withPhase, State.deliver, State.withCache, h]

/-- The line `TXWRITE` answered ok: a sleep frame ends its request, after any other the command byte is
known (44_host_sequences.md R184, R189). -/
theorem writeLine_ok {s : State} (h : s.txpend = true) :
    let sent := s.frameSent.emit (.tx s.txbuf)
    writeLine .ok s = .next (if isSleepFrame s.cfg.layout s.txbuf then (finishSleep sent).withLine .idle
      else sent.withLine (.written (byteAt s.txbuf 2))) := by
  rw [writeLine, txWriteOp_ok h, thenNext_next, if_neg (by simp)]
  rfl

/-- The line `TXWRITE` answered by an error (41_command_encoder.md R112). -/
theorem writeLine_error {s : State} (h : s.txpend = true) (n : Nat) :
    writeLine (.error n) s = .next (s.frameFailed n) := by
  rw [writeLine, txWriteOp_error h, thenNext_next, State.frameFailed_txpend, if_pos h]

/-- The line `TXWRITE` at a step with nothing scheduled: refused with nothing pending, the operation with
the next answer otherwise. -/
theorem step_txWrite {s : State} {rest : List HostOp} (hs : s.schedule = []) (hp : s.phase = .idle)
    (hl : acceptedLine s = none) (hg : s.program = .txWrite :: rest) :
    (s.txpend = false → step s = .refused .nothingToSend) ∧
    (s.txpend = true → ∀ a as, s.answers = a :: as →
      step s = writeLine a ((s.withProgram rest).withAnswers as)) := by
  refine ⟨fun ht => ?_, fun ht a as has => ?_⟩
  · rw [step_of_hostReady hs (by simp [hostReady, hp, hg, ht]), hostStep_program hp hl hg]
    simp [hostOperation, ht]
  · rw [step_of_hostReady hs (by simp [hostReady, hp, hg, has]), hostStep_program hp hl hg]
    simp [hostOperation, ht, has]

/-- Settles O12: the operation by its answer, and the line by the operation. -/
theorem txWriteSendsTheFrameOrKeepsItPending : Obligations.TxWriteSendsTheFrameOrKeepsItPending := by
  unfold Obligations.TxWriteSendsTheFrameOrKeepsItPending
  intro s
  refine ⟨txWriteOp_ok, ?someFragment, ?everyFragment, txWriteOp_nothing, ?line⟩
  case someFragment => exact fun h n => ⟨s.txbuf.take n, List.take_prefix n _, txWriteOp_error h n⟩
  case everyFragment =>
    intro h fragment hfragment
    refine ⟨fragment.length, (txWriteOp_error h _).trans ?_⟩
    rw [State.frameFailed, ← List.prefix_iff_eq_take.1 hfragment]
  case line =>
    intro rest hs hp hl hg
    obtain ⟨nothing, attempt⟩ := step_txWrite hs hp hl hg
    refine ⟨nothing, ?blocked, ?short, ?failed, ?ok⟩
    case blocked =>
      intro ht has
      rw [hostStep_program hp hl hg]
      simp [hostOperation, ht, has]
    case short =>
      intro ht n as has
      rw [attempt ht _ as has, writeLine, txWriteOp_short (by exact ht), thenNext_refused]
    case failed =>
      intro ht n as has
      rw [attempt ht _ as has, writeLine_error (by exact ht)]
      rfl
    case ok =>
      intro ht as has
      rw [attempt ht _ as has, writeLine_ok (by exact ht)]
      simp only [State.withAnswers_cfg, State.withProgram_cfg, State.withAnswers_txbuf,
        State.withProgram_txbuf, isSleepFrame_iff]
      refine ⟨fun hother => ?_, fun hsleep => ?_⟩
      · rw [if_neg hother]
        rfl
      · rw [if_pos hsleep, finishSleep_of_idle (by exact hp)]
        rfl

/-! ### The retry of a called request -/

/-- With nothing scheduled, a writing host makes one attempt with the next answer. -/
theorem step_writing {s : State} {r : Request} {a : WriteAnswer} {as : List WriteAnswer}
    (hs : s.schedule = []) (hp : s.phase = .writing r) (ha : s.answers = a :: as) :
    step s = writeRequest r a (s.withAnswers as) := by
  rw [step_of_hostReady hs (by simp [hostReady, hp, ha])]
  simp [hostStep, hp, ha]

/-- Failed attempts and then a successful one, as a run (41_command_encoder.md R113). -/
theorem run_writes (sents : List Nat) {s : State} {r : Request} {rest : List WriteAnswer}
    (hs : s.schedule = []) (hp : s.phase = .writing r) (ht : s.txpend = true)
    (ha : s.answers = sents.map WriteAnswer.error ++ WriteAnswer.ok :: rest) :
    Sys2Proof.core.run (sents.length + 1) s = .next { s with
      txpend := false
      txHistory := s.txHistory ++ (sents.map fun n => s.txbuf.take n).flatten ++ s.txbuf
      trace := s.trace ++ [.tx s.txbuf]
      answers := rest
      phase := .arming r } := by
  induction sents generalizing s with
  | nil =>
    have sent : step s =
        .next ((((s.withAnswers rest).frameSent).emit (.tx s.txbuf)).withPhase (.arming r)) := by
      rw [step_writing hs hp ha, writeRequest, txWriteOp_ok (by exact ht), thenNext_next, if_neg (by simp)]
      rfl
    rw [List.length_nil, run_next sent, run_zero]
    simp [State.withPhase, State.emit, State.frameSent, State.withAnswers]
  | cons n sents ih =>
    have failed : step s =
        .next ((s.withAnswers (sents.map WriteAnswer.error ++ .ok :: rest)).frameFailed n) := by
      rw [step_writing hs hp ha, writeRequest, txWriteOp_error (by exact ht), thenNext_next,
        if_pos (by exact ht)]
      rfl
    rw [List.length_cons, run_next failed,
      ih (s := (s.withAnswers (sents.map WriteAnswer.error ++ .ok :: rest)).frameFailed n) hs hp ht rfl]
    simp [State.frameFailed, State.withAnswers]

/-- Settles O13. -/
theorem writeRetryResendsTheIdenticalFrame : Obligations.WriteRetryResendsTheIdenticalFrame := by
  unfold Obligations.WriteRetryResendsTheIdenticalFrame
  exact ⟨fun _ n ht => txWriteOp_short ht n, fun sents _ _ _ => run_writes sents⟩

/-! ### `SETTGT`, `ARM`, `AWAIT` -/

/-- Settles O14: the line's operation, and the frame of `GET_DUTY` at the given target. -/
theorem setTgtTakesEffectAtTheNextEncode : Obligations.SetTgtTakesEffectAtTheNextEncode := by
  unfold Obligations.SetTgtTakesEffectAtTheNextEncode
  refine ⟨?line, ?getDuty⟩
  case line =>
    intro s t rest hs hp hl hg
    rw [step_program hs hp hl hg nofun nofun]
    rfl
  case getDuty =>
    intro s ht ha hlayout htgt
    have hframe := commandsWithoutOperandBuildTheirFrame .getDuty 0x08 (by simp) s 0x1234 (by rw [htgt]; rfl)
    exact hframe.1 ht ha hlayout

/-- `ARM` of a legal type with nothing awaited or pending (42_resynchronizer.md R130). -/
theorem armOp_ready {ty c : Byte} {s : State} (hty : ty = typeMeas ∨ ty = typeAck) (ha : s.armed = false)
    (ht : s.txpend = false) : armOp ty c s = .next (s.latchExpectation ty c) := by
  have legal : ¬ (ty ≠ typeMeas ∧ ty ≠ typeAck) := by tauto
  rw [armOp, if_neg legal, if_neg (by simp [ha, ht])]

/-- `ARM` of a legal type during a request (60_exceptions.md R224). -/
theorem armOp_busy {ty c : Byte} {s : State} (hty : ty = typeMeas ∨ ty = typeAck)
    (hb : s.armed = true ∨ s.txpend = true) : armOp ty c s = .refused .overlappingRequest := by
  have legal : ¬ (ty ≠ typeMeas ∧ ty ≠ typeAck) := by tauto
  rw [armOp, if_neg legal, if_pos hb]

/-- `ARM` does not read or change the program. -/
theorem armOp_withProgram (ty c : Byte) (s : State) (rest : List HostOp) :
    armOp ty c (s.withProgram rest) = thenNext (armOp ty c s) fun t => t.withProgram rest := by
  rcases armOp_cases ty c s with ⟨h0, h5, e⟩ | ⟨hty, hb, e⟩ | ⟨hty, ha, ht, e⟩ <;> rw [e]
  · exact if_pos ⟨h0, h5⟩
  · exact armOp_busy (s := s.withProgram rest) hty hb
  · exact armOp_ready (s := s.withProgram rest) hty ha ht

/-- The operand of `on_accept` that a line `ARM` remembers, read off what was written before it. -/
theorem lineIssued_eq {l : LineRequest} {issued : Option Byte}
    (hw : ∀ w, l = .written w → issued = some w) (hn : (∀ w, l ≠ .written w) → issued = none) :
    lineIssued l = issued := by
  cases l with
  | written w => exact (hw w rfl).symm
  | idle | waiting => exact (hn nofun).symm

/-- Settles O15: the operation by its operand and the flags, and the line by the operation. -/
theorem armLatchesTheExpectation : Obligations.ArmLatchesTheExpectation := by
  unfold Obligations.ArmLatchesTheExpectation
  intro ty c s
  refine ⟨armOp_ready, fun h0 h5 => if_pos ⟨h0, h5⟩, armOp_busy, ?line⟩
  intro rest hs hp hl hg
  have hstep : step s = armLine ty c (s.withProgram rest) := step_program hs hp hl hg nofun nofun
  refine ⟨fun e he => ?_, fun hty ha ht issued hw hn => ?_⟩
  · rw [hstep, armLine, armOp_withProgram, he]
    rfl
  · rw [hstep, armLine, armOp_ready hty (by exact ha) (by exact ht), State.withProgram_line,
      lineIssued_eq hw hn]
    rfl

/-- Settles O16: the line blocks while armed, and the decoder moves then. -/
theorem awaitHoldsTheProgramWhileArmed : Obligations.AwaitHoldsTheProgramWhileArmed := by
  unfold Obligations.AwaitHoldsTheProgramWhileArmed
  intro s rest hp hg
  have noLine : s.armed = true → acceptedLine s = none := fun ha => by
    cases h : acceptedLine s with
    | none => rfl
    | some issued =>
      obtain ⟨-, hu, -⟩ := acceptedLine_eq_some h
      exact absurd (ha.symm.trans hu) nofun
  refine ⟨fun ha => ?held, fun ha hl => ?passed, fun hs ha b bs hx => ?decoder⟩
  case held =>
    rw [hostStep_program hp (noLine ha) hg]
    simp [hostOperation, ha]
  case passed =>
    rw [hostStep_program hp hl hg]
    simp [hostOperation, ha, State.withProgram]
  case decoder =>
    have blocked : hostReady s = false := by simp [hostReady, hp, hg, ha, noLine ha]
    rw [step_of_decReady hs blocked (decReady_of_rx ha hx), decStep_of_rx ha hx]
    rfl

/-! ### Issued commands and received responses -/

/-- A whole command frame is read by its row, as a line is (log entry 7). -/
theorem issuedInstruction_of_decodeCommand {l : Layout} {f : List Byte} {i : Instr} {sel : Half}
    (h : decodeCommand l f = .ok (i, sel)) : issuedInstruction l f = .ok i := by
  obtain ⟨hshape, -, rfl, -⟩ := decodeCommand_eq_ok h
  simp [issuedInstruction, frameFields_of_shape hshape]

/-- Settles O40: a line runs the instruction its frame names. -/
theorem stepRunsTheIssuedCommand : Obligations.StepRunsTheIssuedCommand := by
  unfold Obligations.StepRunsTheIssuedCommand
  intro s f rest i hp hl hg hi
  have hissued : issuedInstruction s.cfg.layout f = .ok i := by
    rcases hi with h | ⟨sel, h⟩
    · exact h
    · exact issuedInstruction_of_decodeCommand h
  refine ⟨fun hs => ?_, fun ts hs => ?_⟩
  · rw [step_program hs hp hl hg nofun nofun]
    simp only [hostOperation, hissued]
    rfl
  · rw [step_of_schedule hs]
    refine (hostStep_program (s := s.withSchedule ts) hp hl hg).trans ?_
    simp only [hostOperation, State.withSchedule_cfg, hissued]
    rfl

/-- The turn of DEC that takes the tenth byte of a response runs that response. -/
theorem decStep_of_decodeResponse {s : State} {b : Byte} {rest : List Byte} {i : Instr}
    (ha : s.armed = true) (hs : s.rxstate = .collect) (hc : s.rxcnt = 9) (hx : s.rx = b :: rest)
    (hi : decodeResponse { s.rxbuf with b9 := b } = .ok i) : decStep s = exec i (s.withRx rest) := by
  rw [decStep_of_rx ha hx, rxByteOp_collect_tenth (s := s.withRx rest) hs hc,
    exec_of_responseWindow (responseWindow_of_decodeResponse hi)]
  rfl

/-- Settles O41. -/
theorem stepRunsTheReceivedResponse : Obligations.StepRunsTheReceivedResponse := by
  unfold Obligations.StepRunsTheReceivedResponse
  intro s b rest i ha hstate hc hx hi
  refine ⟨fun hs hh => ?_, fun ts hs => ?_⟩
  · rw [step_of_decReady hs hh (decReady_of_rx ha hx), decStep_of_decodeResponse ha hstate hc hx hi]
    rfl
  · rw [step_of_schedule hs]
    exact decStep_of_decodeResponse (s := s.withSchedule ts) ha hstate hc hx hi

end Sys2Proof.Machine
end

section
/-!
The host's sequences and the refusals: called requests, the end of a wait, `sleep`, every refusal's cause, and
the blocked states (44_host_sequences.md sections 3 and 4; 60_exceptions.md section 1).
-/

namespace Sys2Proof.Machine

/-! ### Command instructions and their operands -/

/-- The operand is within the range the instruction encodes (41_command_encoder.md R104, R108, R111). -/
def OperandInRange : Instr → Prop
  | .setMode m => m.toNat ≤ 1
  | .setRun v => v.toNat ≤ 1
  | .setDuty d => d.toNat ≤ 30
  | .getMode | .query | .setId _ | .getRun | .getFw | .getDuty | .raw .. | .meas .. | .ackMode ..
  | .ackId .. | .ackRun .. | .ackFw .. | .ackDuty .. | .ackOther .. => True

/-- A command instruction is `ENCODE` of its bytes with its operand in range, and refused otherwise
(41_command_encoder.md R102 to R111). -/
theorem exec_command_eq {i : Instr} (hc : responseWindow i = none) (s : State) :
    (OperandInRange i → exec i s = encodeOp (commandByte i) (argumentBytes i) s) ∧
    (¬ OperandInRange i → exec i s = .refused .operandRange) := by
  cases i with
  | setMode v | setRun v | setDuty v =>
    exact ⟨fun h => if_neg (Nat.not_lt.2 h), fun h => if_pos (Nat.not_le.1 h)⟩
  | getMode | query | setId | getRun | getFw | getDuty | raw =>
    exact ⟨fun _ => rfl, fun h => absurd trivial h⟩
  | _ => cases hc

/-- Where a command instruction's refusal comes from (60_exceptions.md R214). -/
theorem exec_command_refused {i : Instr} {s : State} {r : Refusal} (hc : responseWindow i = none)
    (hn : (argumentBytes i).length ≤ 12) (h : exec i s = .refused r) :
    (r = .overlappingRequest ∧ (s.txpend = true ∨ s.armed = true)) ∨
    (r = .operandRange ∧ ¬ OperandInRange i) := by
  obtain ⟨hin, hout⟩ := exec_command_eq hc s
  by_cases hrange : OperandInRange i
  · rw [hin hrange] at h
    rcases encodeOp_cases (commandByte i) (argumentBytes i) s with ⟨hlong, -⟩ | ⟨-, hb, e⟩ | ⟨-, -, -, e⟩
    · omega
    · rw [e] at h
      cases h
      exact .inl ⟨rfl, hb⟩
    · rw [e] at h
      cases h
  · rw [hout hrange] at h
    cases h
    exact .inr ⟨rfl, hrange⟩

/-- A line's instruction has at most twelve argument bytes, and of the operands only a duty can be out of
range: the row of a mode or a run-state has one operand bit. -/
theorem issuedInstruction_spec {l : Layout} {f : List Byte} {i : Instr}
    (h : issuedInstruction l f = .ok i) :
    (argumentBytes i).length ≤ 12 ∧ (¬ OperandInRange i → ∃ d, i = .setDuty d ∧ 30 < d.toNat) := by
  obtain ⟨hshape, rfl⟩ : CommandShape l f ∧ i = readCommand f (cmdFormOf l f) := by
    simp only [issuedInstruction, frameFields] at h
    split_ifs at h with hlen hhead hmarker htail
    cases h
    exact ⟨⟨not_not.1 hlen, not_not.1 hhead, not_not.1 hmarker, not_not.1 htail⟩, rfl⟩
  rcases cmdFormOf_fits hshape with hraw | ⟨hg, hfit⟩
  · rw [hraw]
    exact ⟨List.length_take_le _ _, fun hout => absurd trivial hout⟩
  · have hoperand := hfit.operand
    cases hrow : cmdFormOf l f with
    | raw => exact absurd (hrow ▸ hg) raw_not_named
    | setMode | setRun =>
      rw [hrow] at hoperand
      exact ⟨by simp [readCommand, argumentBytes], fun hout => absurd hoperand hout⟩
    | setDuty =>
      exact ⟨by simp [readCommand, argumentBytes], fun hout => ⟨_, rfl, Nat.not_le.1 hout⟩⟩
    | getMode | query | setId | getRun | getFw | getDuty =>
      exact ⟨by simp [readCommand, argumentBytes, zeros], fun hout => absurd trivial hout⟩

/-- A request's command has at most twelve argument bytes. -/
theorem commandOf_argumentBytes_length {r : Request} {i : Instr} (h : commandOf r = some i) :
    (argumentBytes i).length ≤ 12 := by
  cases r <;> cases h <;> simp [argumentBytes, zeros]

/-! ### Refusals -/

/-- The cause of a refusal, as the spec lists it for the state `s` in which the step was tried
(60_exceptions.md R214). -/
def RefusalCause (s : State) (r : Refusal) : Prop :=
  (r = .overlappingRequest ∧ (s.txpend = true ∨ s.armed = true)) ∨
  (r = .tooManyArgs ∧ ∃ c args rest, s.program = .encode c args :: rest ∧ 12 < args.length) ∨
  (r = .operandRange ∧
    ((∃ m rest, s.program = .call (.setMode m) :: rest ∧ 1 < m.toNat) ∨
     (∃ v rest, s.program = .call (.setRun v) :: rest ∧ 1 < v.toNat) ∨
     (∃ f rest d, s.program = .issue f :: rest ∧
        issuedInstruction s.cfg.layout f = .ok (.setDuty d) ∧ 30 < d.toNat))) ∨
  (r = .badExpectation ∧ ∃ ty c rest, s.program = .arm ty c :: rest ∧ ty ≠ 0xC0 ∧ ty ≠ 0xC5) ∨
  (r = .nothingToSend ∧ s.txpend = false) ∨
  (r = .shortWrite ∧ s.txpend = true ∧ ∃ n rest, s.answers = .short n :: rest) ∨
  (∃ e f rest, r = .notACommandFrame e ∧ s.program = .issue f :: rest ∧
    issuedInstruction s.cfg.layout f = .error e)

section Causes

variable {s : State} {r : Refusal}

/-- An issued frame names no instruction, or a command that is refused. -/
theorem refusalCause_issue {f : List Byte} {rest : List HostOp} (hg : s.program = .issue f :: rest)
    (h : hostOperation (.issue f) rest s = .refused r) : RefusalCause s r := by
  simp only [hostOperation] at h
  cases hi : issuedInstruction s.cfg.layout f with
  | error e =>
    rw [hi] at h
    cases h
    exact .inr (.inr (.inr (.inr (.inr (.inr ⟨e, f, rest, rfl, hg, hi⟩)))))
  | ok i =>
    rw [hi] at h
    obtain ⟨hn, hduty⟩ := issuedInstruction_spec hi
    rcases exec_command_refused (issuedInstruction_isCommand hi) hn h with ⟨rfl, hb⟩ | ⟨rfl, hout⟩
    · exact .inl ⟨rfl, hb⟩
    · obtain ⟨d, rfl, hd⟩ := hduty hout
      exact .inr (.inr (.inl ⟨rfl, .inr (.inr ⟨f, rest, d, hg, hi, hd⟩)⟩))

/-- The line `ENCODE` has too many arguments, or overlaps. -/
theorem refusalCause_encode {c : Byte} {args : List Byte} {rest : List HostOp}
    (hg : s.program = .encode c args :: rest) (h : hostOperation (.encode c args) rest s = .refused r) :
    RefusalCause s r := by
  rw [hostOperation_encode] at h
  rcases encodeOp_cases c args (s.withProgram rest) with ⟨hn, e⟩ | ⟨-, hb, e⟩ | ⟨-, -, -, e⟩ <;>
    (rw [e] at h; cases h)
  · exact .inr (.inl ⟨rfl, c, args, rest, hg, hn⟩)
  · exact .inl ⟨rfl, hb⟩

/-- `TXWRITE` has nothing to send, or its answer is a short write. -/
theorem refusalCause_txWriteOp {a : WriteAnswer} {as : List WriteAnswer} {v : State}
    (ht : v.txpend = s.txpend) (ha : s.answers = a :: as) (h : txWriteOp a v = .refused r) :
    RefusalCause s r := by
  rcases txWriteOp_cases a v with ⟨hp, e⟩ | ⟨-, -, e⟩ | ⟨-, n, -, e⟩ | ⟨hp, n, rfl, e⟩ <;>
    (rw [e] at h; cases h)
  · exact .inr (.inr (.inr (.inr (.inl ⟨rfl, ht.symm.trans hp⟩))))
  · exact .inr (.inr (.inr (.inr (.inr (.inl ⟨rfl, ht.symm.trans hp, n, as, ha⟩)))))

/-- The line `TXWRITE`. -/
theorem refusalCause_txWrite {rest : List HostOp} (h : hostOperation .txWrite rest s = .refused r) :
    RefusalCause s r := by
  simp only [hostOperation] at h
  by_cases hp : s.txpend = false
  · rw [if_pos hp] at h
    cases h
    exact .inr (.inr (.inr (.inr (.inl ⟨rfl, hp⟩))))
  · rw [if_neg hp] at h
    cases ha : s.answers with
    | nil => rw [ha] at h; cases h
    | cons a as =>
      rw [ha] at h
      exact refusalCause_txWriteOp (v := (s.withProgram rest).withAnswers as) rfl ha
        (thenNext_eq_refused h)

/-- The line `ARM` names no response type, or overlaps. -/
theorem refusalCause_arm {ty c : Byte} {rest : List HostOp} (hg : s.program = .arm ty c :: rest)
    (h : hostOperation (.arm ty c) rest s = .refused r) : RefusalCause s r := by
  have harm := thenNext_eq_refused h
  rcases armOp_cases ty c (s.withProgram rest) with ⟨h0, h5, e⟩ | ⟨-, hb, e⟩ | ⟨-, -, -, e⟩ <;>
    (rw [e] at harm; cases harm)
  · exact .inr (.inr (.inr (.inl ⟨rfl, ty, c, rest, hg, h0, h5⟩)))
  · exact .inl ⟨rfl, hb.symm⟩

/-- A request's `ARM` names a response type, so it can only overlap. -/
theorem refusalCause_armExpectation {e : Expectation} {v : State} (ha : v.armed = s.armed)
    (ht : v.txpend = s.txpend) (h : armExpectation e v = .refused r) : RefusalCause s r := by
  have overlap : ∀ {ty c : Byte} {u : State}, ty = typeMeas ∨ ty = typeAck → u.armed = s.armed →
      u.txpend = s.txpend → armOp ty c u = .refused r → RefusalCause s r := by
    intro ty c u hty hua hut hu
    rcases armOp_cases ty c u with ⟨h0, h5, -⟩ | ⟨-, hb, e⟩ | ⟨-, -, -, e⟩
    · exact absurd hty (by tauto)
    · rw [e] at hu
      cases hu
      rw [hua, hut] at hb
      exact .inl ⟨rfl, hb.symm⟩
    · rw [e] at hu
      cases hu
  cases e with
  | meas => exact overlap (u := v.useFree) (.inl rfl) ha ht h
  | ack c => exact overlap (.inr rfl) ha ht h

/-- A called request overlaps, or is a mode or a run-state above 1: a duty above 30 is a usage error. -/
theorem refusalCause_call {q : Request} {rest : List HostOp} (hg : s.program = .call q :: rest)
    (h : hostOperation (.call q) rest s = .refused r) : RefusalCause s r := by
  rcases callRequest_cases q (s.withProgram rest) with ⟨-, e⟩ | ⟨-, v, -, e⟩ | ⟨husage, -, e⟩ <;>
    (simp only [hostOperation] at h; rw [e] at h)
  · cases h
  · cases h
  · unfold startRequest at h
    cases hcmd : commandOf q with
    | none =>
      rw [hcmd] at h
      exact refusalCause_armExpectation (v := s.withProgram rest) rfl rfl (thenNext_eq_refused h)
    | some i =>
      rw [hcmd] at h
      rcases exec_command_refused (commandOf_isCommand hcmd) (commandOf_argumentBytes_length hcmd)
        (thenNext_eq_refused h) with ⟨rfl, hb⟩ | ⟨rfl, hout⟩
      · exact .inl ⟨rfl, hb⟩
      · refine .inr (.inr (.inl ⟨rfl, ?_⟩))
        cases q with
        | setMode m => cases hcmd; exact .inl ⟨m, rest, hg, Nat.not_le.1 hout⟩
        | setRun v => cases hcmd; exact .inr (.inl ⟨v, rest, hg, Nat.not_le.1 hout⟩)
        | setDuty d =>
          cases hcmd
          have hd : d ≤ 30 := by simpa [usageRejected] using husage
          refine absurd ?_ hout
          simp only [OperandInRange, BitVec.toNat_ofNat]
          omega
        | poll => cases hcmd
        | _ => cases hcmd; exact absurd trivial hout

/-- The cause of a refused turn of HOST. -/
theorem refusalCause_hostStep (h : hostStep s = .refused r) : RefusalCause s r := by
  rcases hostStep_cases s with e | ⟨-, op, rest, hg, e⟩ | ⟨-, i, -, -, -, e⟩ | ⟨q, a, as, -, ha, e⟩ |
    ⟨q, -, e⟩ | ⟨q, -, -, -, e⟩ <;> rw [e] at h
  · cases h
  · cases op with
    | issue f => exact refusalCause_issue hg h
    | encode c args => exact refusalCause_encode hg h
    | setTgt t => cases h
    | txWrite => exact refusalCause_txWrite h
    | arm ty c => exact refusalCause_arm hg h
    | await =>
      simp only [hostOperation] at h
      split at h <;> cases h
    | call q => exact refusalCause_call hg h
  · cases h
  · exact refusalCause_txWriteOp (v := s.withAnswers as) rfl ha (thenNext_eq_refused h)
  · unfold beginWait at h
    cases hexp : expectationOf q with
    | none => rw [hexp] at h; cases h
    | some x =>
      rw [hexp] at h
      exact refusalCause_armExpectation rfl rfl (thenNext_eq_refused h)
  · cases h

end Causes

/-- A turn of DEC always answers a next state (60_exceptions.md R210). -/
theorem decStep_answers (s : State) : ∃ t, decStep s = .next t := by
  rcases decStep_byteStep s with ⟨_, _, t, _, _, e, _⟩ | ⟨_, e⟩
  · exact ⟨t, e⟩
  · exact ⟨s, e⟩

/-- A turn of TRANSPORT always answers a next state (60_exceptions.md R210). -/
theorem transportStep_answers (s : State) : ∃ t, transportStep s = .next t := by
  rcases transportStep_cases s with ⟨_, e⟩ | ⟨_, _, _, e⟩ <;> exact ⟨_, e⟩

/-- Settles O52: only a turn of HOST refuses. -/
theorem everyRefusalHasItsCause : Obligations.EveryRefusalHasItsCause := by
  unfold Obligations.EveryRefusalHasItsCause
  intro s r h
  obtain ⟨ts, e | e | e | e | ⟨-, e⟩⟩ := step_turn_cases s
  · exact refusalCause_hostStep (s := s.withSchedule ts) (e.symm.trans h)
  · obtain ⟨t, ht⟩ := decStep_answers (s.withSchedule ts)
    cases (h.symm.trans e).trans ht
  · obtain ⟨t, ht⟩ := transportStep_answers (s.withSchedule ts)
    cases (h.symm.trans e).trans ht
  · cases h.symm.trans e
  · cases h.symm.trans e

/-- A turn that is not the host's answers a next state. -/
theorem takeTurn_answers {turn : Turn} (h : turn ≠ .host) (s : State) : ∃ t, takeTurn turn s = .next t := by
  cases turn with
  | host => exact absurd rfl h
  | dec => exact decStep_answers s
  | readFails => exact ⟨s, rfl⟩
  | transport => exact transportStep_answers s
  | reset => exact ⟨resetEvent s, rfl⟩

/-- Settles O60: DEC, TRANSPORT and reset always answer, and where nobody is ready the step stands still. -/
theorem onlyHostTurnsRefuseAndBlockedStandsStill :
    Obligations.OnlyHostTurnsRefuseAndBlockedStandsStill := by
  unfold Obligations.OnlyHostTurnsRefuseAndBlockedStandsStill
  refine ⟨?answers, ?quiescent, ?waiting, ?writing⟩
  case answers =>
    intro s hturn hready
    cases hs : s.schedule with
    | cons turn ts =>
      rw [step_of_schedule hs]
      exact takeTurn_answers (fun h => hturn (by rw [hs, h]; rfl)) _
    | nil =>
      simp only [step, systemStep, autonomousStep, hs, hready hs, Bool.false_eq_true, if_false]
      split_ifs
      · exact decStep_answers s
      · exact transportStep_answers s
      · exact ⟨s, rfl⟩
  case quiescent =>
    rintro s hs hf ⟨-, ha, hp, hl, hg⟩
    exact step_of_blocked hs (by simp [hostReady, hp, hl, hg]) (by simp [decReady, ha]) hf
  case waiting =>
    rintro s r hs hf hp ⟨ha, hx⟩
    exact step_of_blocked hs (by simp [hostReady, hp, ha]) (by simp [decReady, hx]) hf
  case writing =>
    intro s r hs hf hp has ha
    exact step_of_blocked hs (by simp [hostReady, hp, has]) (by simp [decReady, ha]) hf

end Sys2Proof.Machine
end

section
/-!
The requests of the Sensor Session: how a called request begins, what it waits for, and how it ends
(44_host_sequences.md sections 3 and 4).
-/

namespace Sys2Proof.Machine

/-! ### How a called request begins -/

/-- The step at a called request, with nothing scheduled, is its call. -/
theorem step_call {s : State} {r : Request} {rest : List HostOp} (hs : s.schedule = [])
    (hp : s.phase = .idle) (hl : acceptedLine s = none) (hg : s.program = .call r :: rest) :
    step s = callRequest r (s.withProgram rest) :=
  step_program hs hp hl hg nofun nofun

/-- A request without a value in the cache is not answered from it (44_host_sequences.md R193). -/
theorem cachedAnswer_of_no_value {s : State} {r : Request} (h : cachedValue s.cache r = none) :
    cachedAnswer s r = none := by
  rw [cachedAnswer, h]
  split <;> rfl

/-- A request that passes the validation and is not answered from the cache begins its exchange
(44_host_sequences.md R193, R195). -/
theorem callRequest_exchange {s : State} {r : Request} (hu : usageRejected r = false)
    (hc : cachedAnswer s r = none) : callRequest r s = startRequest r s := by
  simp [callRequest, hu, hc]

/-- Settles O53: `poll` begins with `ARM` of a measurement. -/
theorem pollArmsForAMeasurement : Obligations.PollArmsForAMeasurement := by
  unfold Obligations.PollArmsForAMeasurement
  intro s rest hs hp hg hl ha ht
  refine ⟨Config.freeByte s.freeCount, ?_⟩
  rw [step_call hs hp hl hg, callRequest_exchange rfl (cachedAnswer_of_no_value rfl)]
  simp only [startRequest, commandOf, armExpectation]
  rw [armOp_ready (.inl rfl) (by exact ha) (by exact ht), thenNext_next]
  rfl

/-- The command of a request that writes one, begun with nothing pending and nothing awaited, and while
busy (44_host_sequences.md R186 to R192). -/
theorem startRequest_command {r : Request} {i : Instr} (hi : commandOf r = some i)
    (hrange : OperandInRange i) (s : State) :
    (s.txpend = false → s.armed = false →
      let f := buildFrame s.cfg.layout s.tgt (commandByte i) (argumentBytes i)
      exec i s = .next (s.loadFrame f) ∧
      startRequest r s = .next (((s.loadFrame f).withLine .idle).withPhase (.writing r))) ∧
    (s.txpend = true ∨ s.armed = true → startRequest r s = .refused .overlappingRequest) := by
  have hn := commandOf_argumentBytes_length hi
  obtain ⟨hexec, -⟩ := exec_command_eq (commandOf_isCommand hi) s
  refine ⟨fun ht ha => ?_, fun hb => ?_⟩
  · have hready := (hexec hrange).trans (encodeOp_ready hn ht ha)
    refine ⟨hready, ?_⟩
    simp only [startRequest, hi]
    rw [hready, thenNext_next]
  · simp only [startRequest, hi]
    rw [hexec hrange, encodeOp_busy hn hb, thenNext_refused]

/-- Getters with nothing in the cache, `query` and setters in range have a command in range and are exchanged
(44_host_sequences.md R186 to R193). -/
theorem commandOf_of_uncached {s : State} {r : Request} {i : Instr}
    (h : (r = .getMode ∧ i = .getMode ∧ (s.cfg.track = false ∨ s.cache.mode = none)) ∨
     (r = .getRun ∧ i = .getRun ∧ (s.cfg.track = false ∨ s.cache.run = none)) ∨
     (r = .getDuty ∧ i = .getDuty ∧ (s.cfg.track = false ∨ s.cache.duty = none)) ∨
     (r = .getFirmware ∧ i = .getFw ∧ (s.cfg.track = false ∨ s.cache.fw = none)) ∨
     (r = .getId ∧ i = .getFw ∧ (s.cfg.track = false ∨ s.cache.id = 0xFFFF)) ∨
     (r = .query ∧ i = .query) ∨
     (∃ b : Byte, b.toNat ≤ 1 ∧ ((r = .setMode b ∧ i = .setMode b) ∨ (r = .setRun b ∧ i = .setRun b))) ∨
     (∃ d : Nat, d ≤ 30 ∧ r = .setDuty d ∧ i = .setDuty (BitVec.ofNat 8 d)) ∨
     (∃ n : Nat, n ≤ 0xFFFF ∧ r = .setId n ∧ i = .setId (BitVec.ofNat 16 n))) :
    commandOf r = some i ∧ OperandInRange i ∧ usageRejected r = false ∧ cachedAnswer s r = none := by
  have unknown : ∀ {α : Type} {o : Option α} {g : α → Returned}, s.cfg.track = false ∨ o = none →
      (if s.cfg.track then o.map g else none) = none := by
    rintro α o g (h | rfl) <;> simp [*]
  rcases h with ⟨rfl, rfl, h⟩ | ⟨rfl, rfl, h⟩ | ⟨rfl, rfl, h⟩ | ⟨rfl, rfl, h⟩ | ⟨rfl, rfl, h⟩ |
    ⟨rfl, rfl⟩ | ⟨b, hb, ⟨rfl, rfl⟩ | ⟨rfl, rfl⟩⟩ | ⟨d, hd, rfl, rfl⟩ | ⟨n, hn, rfl, rfl⟩
  · exact ⟨rfl, trivial, rfl, unknown h⟩
  · exact ⟨rfl, trivial, rfl, unknown h⟩
  · exact ⟨rfl, trivial, rfl, unknown h⟩
  · exact ⟨rfl, trivial, rfl, unknown h⟩
  · refine ⟨rfl, trivial, rfl, ?_⟩
    rcases h with h | h <;> simp [cachedAnswer, cachedValue, h]
  · exact ⟨rfl, trivial, rfl, cachedAnswer_of_no_value rfl⟩
  · exact ⟨rfl, hb, rfl, cachedAnswer_of_no_value rfl⟩
  · exact ⟨rfl, hb, rfl, cachedAnswer_of_no_value rfl⟩
  · refine ⟨rfl, ?_, by simpa [usageRejected] using hd, cachedAnswer_of_no_value rfl⟩
    simp only [OperandInRange, BitVec.toNat_ofNat]
    omega
  · exact ⟨rfl, trivial, by simpa [usageRejected] using hn, cachedAnswer_of_no_value rfl⟩

/-- Settles O58: such a request begins with its command. -/
theorem uncachedRequestEncodesItsCommand : Obligations.UncachedRequestEncodesItsCommand := by
  unfold Obligations.UncachedRequestEncodesItsCommand
  refine ⟨?exchanged, ?outOfRange⟩
  case exchanged =>
    intro s r i rest hs hp hl hg hr
    obtain ⟨hi, hrange, hu, hc⟩ := commandOf_of_uncached (s := s.withProgram rest) hr
    have hstep : step s = startRequest r (s.withProgram rest) :=
      (step_call hs hp hl hg).trans (callRequest_exchange hu hc)
    obtain ⟨hready, hbusy⟩ := startRequest_command hi hrange (s.withProgram rest)
    refine ⟨fun ht ha => ?_, fun hb => hstep.trans (hbusy hb)⟩
    obtain ⟨hexec, hstart⟩ := hready ht ha
    exact ⟨_, hexec, hstep.trans hstart⟩
  case outOfRange =>
    intro s b rest hs hp hl hg hb
    have refused : ∀ {r : Request} {i : Instr}, s.program = .call r :: rest → commandOf r = some i →
        ¬ OperandInRange i → usageRejected r = false → cachedAnswer (s.withProgram rest) r = none →
        step s = .refused .operandRange := by
      intro r i hg hi hout hu hc
      rw [step_call hs hp hl hg, callRequest_exchange hu hc]
      simp only [startRequest, hi]
      rw [(exec_command_eq (commandOf_isCommand hi) _).2 hout, thenNext_refused]
    have above : ¬ b.toNat ≤ 1 := Nat.not_le.2 hb
    rcases hg with hg | hg
    · exact refused (i := .setMode b) hg rfl above rfl (cachedAnswer_of_no_value rfl)
    · exact refused (i := .setRun b) hg rfl above rfl (cachedAnswer_of_no_value rfl)

/-- Settles O57: the validation passes a getter, and the cache has its value. -/
theorem cachedGetterLeavesTheBlockAlone : Obligations.CachedGetterLeavesTheBlockAlone := by
  unfold Obligations.CachedGetterLeavesTheBlockAlone
  intro s r v rest hs hp hl hg htrack hr
  obtain ⟨hu, hc⟩ : usageRejected r = false ∧ cachedAnswer (s.withProgram rest) r = some v := by
    simp only [cachedAnswer, State.withProgram_cfg, State.withProgram_cache, htrack, if_true]
    rcases hr with ⟨rfl, b, hb, rfl⟩ | ⟨rfl, b, hb, rfl⟩ | ⟨rfl, b, hb, rfl⟩ |
      ⟨rfl, y, m, d, hb, rfl⟩ | ⟨rfl, hb, rfl⟩
    case inr.inr.inr.inr => exact ⟨rfl, if_neg hb⟩
    all_goals exact ⟨rfl, by simp [cachedValue, hb]⟩
  rw [step_call hs hp hl hg]
  simp only [callRequest, hu, hc]
  rfl

/-- Settles O59: the validation comes first. -/
theorem rejectedInputIsAUsageErrorOnly : Obligations.RejectedInputIsAUsageErrorOnly := by
  unfold Obligations.RejectedInputIsAUsageErrorOnly
  intro s r rest hs hp hl hg hr
  have hu : usageRejected r = true := by
    rcases hr with ⟨d, rfl, hd⟩ | ⟨n, rfl, hn⟩
    · exact decide_eq_true hd
    · exact decide_eq_true hn
  rw [step_call hs hp hl hg]
  simp only [callRequest, hu, if_true]
  rfl

/-! ### What a request waits for -/

/-- A host whose frame is written begins its wait. -/
theorem hostStep_arming {s : State} {r : Request} (hp : s.phase = .arming r) :
    hostStep s = beginWait r s := by
  simp [hostStep, hp]

/-- Every request but `poll`, `query` and `sleep` expects an ack echoing its command byte
(44_host_sequences.md R183). -/
theorem expectationOf_ack {r : Request} {c : Byte} (hpoll : r ≠ .poll) (hquery : r ≠ .query)
    (hsleep : r ≠ .setRun 0) (hc : issuedByte r = some c) : expectationOf r = some (.ack c) := by
  cases r with
  | poll => exact absurd rfl hpoll
  | query => exact absurd rfl hquery
  | setRun v =>
    have hv : v ≠ 0 := fun h => hsleep (h ▸ rfl)
    cases hc
    exact if_neg hv
  | _ => cases hc; rfl

/-- Settles O54: the wait is `ARM` with the request's expectation. -/
theorem requestsArmTheExpectationOfTheirCommand :
    Obligations.RequestsArmTheExpectationOfTheirCommand := by
  unfold Obligations.RequestsArmTheExpectationOfTheirCommand
  intro s r c ha ht hp hpoll hsleep hc
  refine ⟨fun hquery => ?ack, fun hquery => ?meas⟩
  case ack =>
    rw [hostStep_arming hp, beginWait, expectationOf_ack hpoll hquery hsleep hc]
    simp only [armExpectation]
    rw [armOp_ready (.inr rfl) ha ht, thenNext_next]
    rfl
  case meas =>
    subst hquery
    refine ⟨Config.freeByte s.freeCount, ?_⟩
    rw [hostStep_arming hp]
    simp only [beginWait, expectationOf, armExpectation]
    rw [armOp_ready (.inl rfl) (by exact ha) (by exact ht), thenNext_next]
    rfl

/-! ### How a request ends -/

/-- What a request by lines returns where its expectation is armed (44_host_sequences.md R183). -/
theorem lineResult_of_request {s : State} {issued : Option Byte} {r : Request}
    (hr : requestOfIssued issued = some r) (he : expectationArmed s r = true) :
    (lineResult issued s).toList = [resultOf s.cfg s.rspbuf r] := by
  simp [lineResult, hr, he]

/-- The measurement expectation is the request's that a request by lines stands for. -/
theorem expectationArmed_meas {s : State} {r : Request} (hr : expectationOf r = some .meas)
    (hty : s.expType = 0xC0) : expectationArmed s r = true := by
  rw [expectationArmed, hr]
  exact decide_eq_true hty

/-- The ack expectation is the request's that a request by lines stands for. -/
theorem expectationArmed_ack {s : State} {r : Request} {c : Byte} (hr : expectationOf r = some (.ack c))
    (hty : s.expType = 0xC5) (hc : s.expCmd = c) : expectationArmed s r = true := by
  rw [expectationArmed, hr]
  exact decide_eq_true ⟨hty, hc⟩

/-- Settles O55: both ends are `on_accept` and the value of the request; for a request by lines that is
the request its command byte stands for. -/
theorem acceptedResponseRefreshesTheCache : Obligations.AcceptedResponseRefreshesTheCache := by
  unfold Obligations.AcceptedResponseRefreshesTheCache
  refine ⟨?called, ?byLines⟩
  case called =>
    intro s r hp ha hv
    refine ⟨resultOf s.cfg s.rspbuf r, refreshCache s.cfg (issuedByte r) s.rspbuf s.cache, ?step, rfl, rfl,
      rfl, rfl, rfl, ?measurement, ?value, ?firmware, ?id⟩
    case step =>
      simp only [hostStep, hp]
      rw [if_pos ⟨ha, hv⟩]
      rfl
    case measurement => rintro (rfl | rfl) <;> rfl
    case value => rintro (rfl | rfl | rfl | ⟨b, rfl | rfl⟩ | ⟨d, rfl⟩) <;> rfl
    case firmware => rintro rfl; rfl
    case id => rintro (rfl | ⟨n, rfl⟩) <;> rfl
  case byLines =>
    intro s issued hp hline ha hv
    have haccepted : acceptedLine s = some issued := by
      simp [acceptedLine, hline, ha, hv]
    refine ⟨(lineResult issued s).toList, refreshCache s.cfg issued s.rspbuf s.cache, ?step, rfl, rfl, rfl,
      rfl, rfl, ?measurement, ?ack, ?atMostOne⟩
    case step =>
      simp only [hostStep, hp, haccepted]
      rw [finishLine_eq]
      simp [hp]
    case measurement =>
      rintro hty (rfl | rfl)
      · exact lineResult_of_request (r := .poll) rfl (expectationArmed_meas rfl hty)
      · exact lineResult_of_request (r := .query) rfl (expectationArmed_meas rfl hty)
    case ack =>
      rintro c hty hc rfl
      refine ⟨?_, ?_, ?_⟩
      · rintro (rfl | rfl | rfl)
        · exact lineResult_of_request (r := .getMode) rfl (expectationArmed_ack rfl hty hc)
        · exact lineResult_of_request (r := .getRun) rfl (expectationArmed_ack rfl hty hc)
        · exact lineResult_of_request (r := .getDuty) rfl (expectationArmed_ack rfl hty hc)
      · rintro rfl
        exact lineResult_of_request (r := .getFirmware) rfl (expectationArmed_ack rfl hty hc)
      · rintro rfl
        exact lineResult_of_request (r := .setId 0) rfl (expectationArmed_ack rfl hty hc)
    case atMostOne => cases lineResult issued s <;> simp

/-- A `sleep` whose write fails any number of times and then succeeds ends without a wait
(41_command_encoder.md R113; 44_host_sequences.md R189). -/
theorem run_sleep (sents : List Nat) {s : State} {rest : List WriteAnswer} (hs : s.schedule = [])
    (hp : s.phase = .writing .sleep) (ht : s.txpend = true)
    (ha : s.answers = sents.map WriteAnswer.error ++ WriteAnswer.ok :: rest) :
    Sys2Proof.core.run (sents.length + 2) s = .next { s with
      txpend := false
      txHistory := s.txHistory ++ (sents.map fun n => s.txbuf.take n).flatten ++ s.txbuf
      trace := s.trace ++ [.tx s.txbuf], answers := rest, cache := { s.cache with run := some 0 }
      returned := s.returned ++ [.value 0], phase := .idle } := by
  have ends : ∀ {t : State}, t.schedule = [] → t.phase = .arming .sleep →
      step t = .next (finishSleep t) := by
    intro t hts htp
    rw [step_of_hostReady hts (by simp [hostReady, htp]), hostStep_arming htp]
    rfl
  refine (run_add (n := 1) (run_writes sents hs hp ht ha)).trans ((run_next (k := 0) (ends ?_ ?_)).trans ?_)
  · exact hs
  · rfl
  · exact run_zero _

/-- Settles O56: the exchange begins with the sleep frame, and the rest is the run of its write. -/
theorem sleepReturnsWithoutAnyRead : Obligations.SleepReturnsWithoutAnyRead := by
  unfold Obligations.SleepReturnsWithoutAnyRead
  intro s rest sents as hs hp hg hans hl ht ha
  obtain ⟨-, -, hcmd, -⟩ := buildFrame_fixedBytes s.cfg.layout s.tgt 0x06 [0x01, 0]
  refine ⟨buildFrame s.cfg.layout s.tgt 0x06 [0x01, 0], buildFrame_emitted .., hcmd,
    buildFrame_argument _ _ _ _ 0 (by omega), buildFrame_argument _ _ _ _ 1 (by omega), ?_⟩
  obtain ⟨hready, -⟩ :=
    startRequest_command (r := .sleep) (i := .setRun 0) rfl (Nat.zero_le 1) (s.withProgram rest)
  obtain ⟨-, hstart⟩ := hready ht ha
  have begins := (step_call hs hp hl hg).trans
    ((callRequest_exchange rfl (cachedAnswer_of_no_value rfl)).trans hstart)
  refine (run_next begins).trans ((run_sleep sents (rest := as) (by exact hs) (by rfl) (by rfl)
    (by exact hans)).trans ?_)
  simp [commandByte, argumentBytes, State.withPhase, State.withLine, State.loadFrame, State.withProgram,
    hp, ht]

end Sys2Proof.Machine
end
